-- ==== Sys2Proof/Word.lean ====
section
/-! DEFINITION. The word types of the LS-8 CORE (spec/00_scope.md R5, R7; spec/10_state.md R16). -/

namespace Sys2Proof

/-- A memory cell, a register, an opcode byte or an operand byte: 8 bits, unsigned (R5 `CELL_WIDTH`, `REG_WIDTH`; R7). -/
abbrev Byte := BitVec 8

/-- The address of a memory cell, 0 to 255: `MEM_SIZE` is 256 (R5, R24). -/
abbrev CellAddr := BitVec 8

/-- The width of `pc` and of `fault_info`: 9 bits (R5 `PC_WIDTH`, R18).
Under `ADDR_POLICY = WRAP` the spec's `pc` has 8 bits: the top bit of this word is then 0 (log entry 3). -/
abbrev PcWord := BitVec 9

/-- The index of a register, 0 to 7: `NREGS` is 8 (R5, R13). -/
abbrev RegIndex := Fin 8

end Sys2Proof
end

