-- ==== Sys2Proof/Config.lean ====
section
/-! DEFINITION. The implementation parameters (spec/00_scope.md R5) and the one open value of the spec. -/

namespace Sys2Proof

/-- `ADDR_POLICY` (R5, R31): what a fetch address of 256 or more does. -/
inductive AddrPolicy where
  /-- `FAULT`: it raises OUT_OF_BOUNDS. -/
  | fault
  /-- `WRAP`: it is taken mod 256. -/
  | wrap
deriving DecidableEq, Repr

/-- `INVALID_POLICY` (R5, R73, R74): what an invalid opcode byte does. -/
inductive InvalidPolicy where
  /-- `CONTINUE`: it emits a diagnostic event and is skipped. -/
  | continueRun
  /-- `FATAL`: it raises INVALID_INSTRUCTION. -/
  | fatal
deriving DecidableEq, Repr

/-- The two rows of R5 marked "parameter": fixed for one machine, "an argument the model takes". -/
structure Params where
  addrPolicy : AddrPolicy
  invalidPolicy : InvalidPolicy
deriving DecidableEq, Repr

/-- The defaults of R5. -/
def Params.default : Params := { addrPolicy := .fault, invalidPolicy := .continueRun }

/-- `SP_RESET`, the reset value of register 7 (R5, R15). -/
def Config.spReset : Byte := 0xF4#8

/-- `LOAD_BASE`, the first address the loader writes and the first pc (R5). -/
def Config.loadBase : Nat := 0

/-- The text of the diagnostic line the host writes for an `Invalid(p, b)` event.
FREE VALUE (log entry 5): R21 and N5 say the source gives no text, U8 says `any value`; nothing constrains it. -/
opaque Config.diagnosticText : PcWord → Byte → List Char

end Sys2Proof
end

