-- ==== Sys2Proof/Syntax.lean ====
section
/-! DEFINITION. The instructions: one constructor per row of spec/opcode_table.json. -/

namespace Sys2Proof

/-- The four instructions (spec/00_scope.md R2, R9; spec/30_encoding.md R43).
An operand is its whole operand byte: a register operand of 8 or more is an instruction too, one that faults
when it runs (R41, R56). -/
inductive Instr where
  /-- HALT (R62). -/
  | halt
  /-- PRINT-REGISTER `Ra` (R64). -/
  | printRegister (a : Byte)
  /-- SET-IMMEDIATE `Ra, imm8` (R63). -/
  | setImmediate (a b : Byte)
  /-- MULTIPLY `Ra, Rb` (R70). -/
  | multiply (a b : Byte)
deriving DecidableEq, Repr

end Sys2Proof
end

