-- ==== Sys2Proof/WellFormed.lean ====
section
/-! DEFINITION. Which instructions name only registers that exist (spec/30_encoding.md R41). -/

namespace Sys2Proof

/-- The operand byte is a register index: "It must be in 0 to 7" (R41). -/
def namesRegister (b : Byte) : Bool := decide (b.toNat < 8)

/-- Every register operand names a register. The others decode and run too: their step raises BAD_REGISTER (R56). -/
def Instr.wellFormed : Instr → Bool
  | .halt => true
  | .printRegister a => namesRegister a
  | .setImmediate a _ => namesRegister a
  | .multiply a b => namesRegister a && namesRegister b

end Sys2Proof
end

