-- ==== Sys2Proof/Decode.lean ====
section
/-! DEFINITION. The decoder and the encoder (spec/30_encoding.md). -/

namespace Sys2Proof

/-- The opcode byte of HALT (R43). -/
def opHalt : Byte := 0b00000001#8
/-- The opcode byte of PRINT-REGISTER (R43). -/
def opPrintRegister : Byte := 0b01000111#8
/-- The opcode byte of SET-IMMEDIATE (R43). -/
def opSetImmediate : Byte := 0b10000010#8
/-- The opcode byte of MULTIPLY (R43). -/
def opMultiply : Byte := 0b10100010#8

/-- The opcode byte is one of the four rows of R43; every other byte is an invalid instruction (R45). -/
def isOpcode (ir : Byte) : Bool :=
  ir == opHalt || ir == opPrintRegister || ir == opSetImmediate || ir == opMultiply

/-- The operand count field `N = ir[7:6]` (R39). -/
def operandCount (ir : Byte) : Nat := (ir.extractLsb' 6 2).toNat

/-- The width `w = N + 1` in bytes, for every opcode byte, valid or invalid (R39, R54). -/
def width (ir : Byte) : Nat := operandCount ir + 1

/-- Why the decoder gives no instruction. -/
inductive DecodeReject where
  /-- The opcode byte is none of the four rows of R43 (R45). Not a stop of the machine: the step runs R73 or R74. -/
  | invalidOpcode (ir : Byte)
  /-- The byte sequence ends before the instruction does. No fetch meets this, since it always has three bytes (R40). -/
  | truncated
deriving DecidableEq, Repr

/-- Dispatch by the exact value of the whole opcode byte (R42). `a` and `b` are the two bytes fetched after it,
ignored where the instruction does not use them (R47). -/
def decode (ir a b : Byte) : Except DecodeReject Instr :=
  if ir = opHalt then .ok .halt
  else if ir = opPrintRegister then .ok (.printRegister a)
  else if ir = opSetImmediate then .ok (.setImmediate a b)
  else if ir = opMultiply then .ok (.multiply a b)
  else .error (.invalidOpcode ir)

/-- Read one instruction off a byte sequence and give it with the bytes after its width (R37, R39). -/
def decodeBytes : List Byte → Except DecodeReject (Instr × List Byte)
  | [] => .error .truncated
  | ir :: rest =>
    if isOpcode ir = true ∧ rest.length + 1 < width ir then .error .truncated
    else
      match decode ir (rest.getD 0 0) (rest.getD 1 0) with
      | .ok i => .ok (i, rest.drop (operandCount ir))
      | .error r => .error r

/-- The opcode byte of an instruction (R43). -/
def Instr.opcode : Instr → Byte
  | .halt => opHalt
  | .printRegister _ => opPrintRegister
  | .setImmediate _ _ => opSetImmediate
  | .multiply _ _ => opMultiply

/-- The bytes of an instruction at ascending addresses: opcode, operand_a, operand_b (R26, R38, R43). -/
def encode : Instr → List Byte
  | .halt => [opHalt]
  | .printRegister a => [opPrintRegister, a]
  | .setImmediate a b => [opSetImmediate, a, b]
  | .multiply a b => [opMultiply, a, b]

/-- Byte `k` of a word numbered as spec/opcode_table.json numbers it: bit 0 is the least significant bit of byte 0. -/
def byteOfWord (w k : Nat) : Byte := BitVec.ofNat 8 (w / 256 ^ k)

/-- The three bytes a fetch would read for a table word of `nbits` bits, the bits above them 0. -/
def tableBytes (nbits w : Nat) : Byte × Byte × Byte :=
  let v := w % 2 ^ nbits
  (byteOfWord v 0, byteOfWord v 1, byteOfWord v 2)

/-- The instruction the decoder reads from a table word (none where it refuses). -/
def decodeTableWord (nbits w : Nat) : Option Instr :=
  match decode (tableBytes nbits w).1 (tableBytes nbits w).2.1 (tableBytes nbits w).2.2 with
  | .ok i => some i
  | .error _ => none

end Sys2Proof
end

