-- ==== Sys2Proof/Machine/State.lean ====
section
/-! DEFINITION. The machine's state (spec/10_state.md R11), its reset (spec/70_reset_and_hazards.md R90) and the
reasons a step can stop. -/

namespace Sys2Proof.Machine

/-- The memory `M[0..255]` (R11, R24): the cells whose value is not what an unlisted address reads as, by rising
address. `Memory.wf` (Machine/Ops.lean) says this form. -/
structure Memory where
  cells : List Host.Cell
deriving DecidableEq, Repr

/-- The memory with nothing listed. -/
def Memory.empty : Memory := { cells := [] }

/-- The fault codes of R18. -/
inductive FaultCode where
  /-- `NONE`, code 0. -/
  | none
  /-- `OUT_OF_BOUNDS`, code 1: raised by the fetch (R31). -/
  | outOfBounds
  /-- `BAD_REGISTER`, code 2: raised by a register operand of 8 or more (R56). -/
  | badRegister
  /-- `UNSUPPORTED_ALU_OP`, code 3: raised by the ALU on a tag outside its set, by no instruction (R69). -/
  | unsupportedAluOp
  /-- `INVALID_INSTRUCTION`, code 4: raised by an invalid opcode under FATAL (R74). -/
  | invalidInstruction
deriving DecidableEq, Repr

/-- An output event (R21). -/
inductive Event where
  /-- `Print(v)`: emitted by PRINT-REGISTER (R64). -/
  | print (v : Byte)
  /-- `Invalid(p, b)`: the opcode byte `b` at address `p` is no instruction (R73). -/
  | invalid (p : PcWord) (b : Byte)
deriving DecidableEq, Repr

/-- The state of the CORE: the rows of R11, and `params`, the model's own field (log entry 1). -/
structure State where
  /-- `M[0..255]`. -/
  mem : Memory
  /-- `x[0..7]`. -/
  x : Vector Byte 8
  /-- The address of the next opcode byte to fetch (R16). -/
  pc : PcWord
  /-- Its truth ends the run (R17). -/
  halted : Bool
  /-- The fault code (R18). -/
  fault : FaultCode
  /-- `fault_info` (R18). -/
  faultInfo : PcWord
  /-- The instruction register (R20). -/
  ir : Byte
  /-- The latch of the byte at `pc+1` (R20). -/
  operandA : Byte
  /-- The latch of the byte at `pc+2` (R20). -/
  operandB : Byte
  /-- The events emitted since reset, in emission order (R21). -/
  out : List Event
  /-- MODEL'S OWN: the parameters of R5, which no step changes (log entry 1). -/
  params : Params
deriving DecidableEq, Repr

/-- The reset state of R90, for a machine with the given parameters. -/
def State.resetWith (p : Params) : State :=
  { mem := Memory.empty
    x := #v[0#8, 0#8, 0#8, 0#8, 0#8, 0#8, 0#8, Config.spReset]
    pc := BitVec.ofNat 9 Config.loadBase
    halted := false
    fault := .none
    faultInfo := 0#9
    ir := 0#8
    operandA := 0#8
    operandB := 0#8
    out := []
    params := p }

/-- The reset state of R90 under the spec's default parameters (R5). -/
def State.reset : State := State.resetWith Params.default

/-- Why there is no next step. No instruction's meaning answers one of these: an instruction that faults takes the
spec's fault (R76), which is a next state. -/
inductive Fault where
  /-- Raised by `step` alone, on a halted engine: "When `halted = true` the engine takes no step" (R52). Safe. -/
  | engineHalted
  /-- Raised by `step` alone, on an engine whose fault status is `code`: "When `fault ≠ NONE` the engine takes no
  step either" (R52, R77). Safe. -/
  | engineFaulted (code : FaultCode)
deriving DecidableEq, Repr

/-- Why an instruction has no meaning. -/
inductive Refusal where
  /-- Raised by an arm of `exec` for an instruction that has no meaning yet; no arm does. Safe. -/
  | notModelled (mnemonic : String)
deriving DecidableEq, Repr

/-- What one step or one meaning answers. -/
abbrev StepOutcome := Host.Outcome State Fault Refusal

end Sys2Proof.Machine
end

