-- ==== Sys2Proof/Machine/Ops.lean ====
section
/-! DEFINITION. The shared operations: memory, registers, the output stream, the advance of `pc`, and raising a fault. -/

namespace Sys2Proof.Machine

/-- What an address not listed reads as: 0, the reset content of every cell (spec/20_memory.md R24, R90). -/
def Memory.unlisted : Byte := 0#8

/-- The value listed for an address, or what an unlisted address reads as. -/
def lookupCell : List Host.Cell → Nat → Byte
  | [], _ => Memory.unlisted
  | (k, v) :: rest, a => if k = a then v else lookupCell rest a

/-- The cells without an entry for an address, or with the given one in its place in the order. -/
def storeCell (a : Nat) (v : Byte) : List Host.Cell → List Host.Cell
  | [] => if v = Memory.unlisted then [] else [(a, v)]
  | (k, w) :: rest =>
    if a < k then (if v = Memory.unlisted then (k, w) :: rest else (a, v) :: (k, w) :: rest)
    else if a = k then (if v = Memory.unlisted then rest else (a, v) :: rest)
    else (k, w) :: storeCell a v rest

/-- Canonical cells from address `lo` on: strictly rising, within the address space, none equal to what an unlisted
address reads as. -/
def canonicalFrom (lo : Nat) : List Host.Cell → Bool
  | [] => true
  | (k, v) :: rest =>
    decide (lo ≤ k) && decide (k < 256) && decide (v ≠ Memory.unlisted) && canonicalFrom (k + 1) rest

/-- The memory is in its one canonical form. -/
def Memory.wf (m : Memory) : Bool := canonicalFrom 0 m.cells

/-- `MemRead(addr, 1)`: one byte (R8, R28). An address outside 0 to 255 does not exist and is none of this type. -/
def Memory.read (m : Memory) (a : CellAddr) : Byte := lookupCell m.cells a.toNat

/-- `MemWrite(addr, 1, v)`: one byte, used only by the host's loader (R8, R25). -/
def Memory.write (m : Memory) (a : CellAddr) (v : Byte) : Memory := { cells := storeCell a.toNat v m.cells }

/-- Read register `r` (R8 `x[i]`). No register is hard-wired (R13). -/
def State.readReg (s : State) (r : RegIndex) : Byte := s.x[r.val]

/-- Write register `r` (R8 `x[i] <- v`). -/
def State.writeReg (s : State) (r : RegIndex) (v : Byte) : State := { s with x := s.x.set r.val v }

/-- Append an output event (R8 `emit`, R21). -/
def State.emit (s : State) (e : Event) : State := { s with out := s.out ++ [e] }

/-- The advance of R57: the sum kept whole under FAULT, taken mod 256 under WRAP. -/
def nextPc (p : AddrPolicy) (pc : PcWord) (w : Nat) : PcWord :=
  match p with
  | .fault => BitVec.ofNat 9 (pc.toNat + w)
  | .wrap => BitVec.ofNat 9 ((pc.toNat + w) % 256)

/-- The end of every step that does not raise: `pc` moves past the instruction's `w` bytes (R57). -/
def State.advance (s : State) (w : Nat) : State := { s with pc := nextPc s.params.addrPolicy s.pc w }

/-- The fault status with a fault recorded: "no change except these two writes" (spec/60_exceptions.md R76). -/
def State.recordFault (s : State) (code : FaultCode) (info : PcWord) : State :=
  { s with fault := code, faultInfo := info }

/-- `raise <Fault>(info)` (R8, R76): the one operation every fault is taken by. No control is transferred and nothing is
saved (R81); there is no return from it, and only reset leaves the faulted condition (R77, R82). -/
def raise (code : FaultCode) (info : PcWord) (s : State) : StepOutcome := .next (s.recordFault code info)

end Sys2Proof.Machine
end

