-- ==== Sys2Proof/Machine/Alu.lean ====
section
/-! DEFINITION. The ALU (spec/44_alu_multiply.md R67 to R72). -/

namespace Sys2Proof.Machine

/-- The operation tag given to the ALU (R68). -/
inductive AluTag where
  /-- `ADD`: in `ALU_OPS`, but no opcode selects it (R71). -/
  | add
  /-- `MUL`. -/
  | mul
  /-- A tag outside `ALU_OPS = {ADD, MUL}` (R69); the decoder sends none (log entry 12). -/
  | unsupported (tag : Nat)
deriving DecidableEq, Repr

/-- `ALU(op, va, vb)` (R67): the exact result on naturals, reduced mod 256 (R72); no value for an unsupported tag. -/
def alu (op : AluTag) (va vb : Byte) : Option Byte :=
  match op with
  | .add => some (BitVec.ofNat 8 ((va.toNat + vb.toNat) % 256))
  | .mul => some (BitVec.ofNat 8 ((va.toNat * vb.toNat) % 256))
  | .unsupported _ => none

/-- An instruction of width `w` that uses the ALU: the result of `op` on registers `ra` and `rb`, both read before the
write (R58), goes back into `ra` (R67); an unsupported tag raises UNSUPPORTED_ALU_OP with info 0 (R18, R69). -/
def aluInstruction (op : AluTag) (ra rb : RegIndex) (w : Nat) (s : State) : StepOutcome :=
  match alu op (s.readReg ra) (s.readReg rb) with
  | some v => .next ((s.writeReg ra v).advance w)
  | none => raise .unsupportedAluOp 0#9 s

end Sys2Proof.Machine
end

