-- ==== Sys2Proof/Machine/Operands.lean ====
section
/-! DEFINITION. The two operand forms (spec/30_encoding.md R41): a register index and an immediate. -/

namespace Sys2Proof.Machine

/-- The register a register-index operand byte names, if it names one; no bits are masked off (R41). -/
def registerOperand? (b : Byte) : Option RegIndex :=
  if h : b.toNat < 8 then some ⟨b.toNat, h⟩ else none

/-- `check_reg` (R51, R56), then the rest of the instruction: an operand byte of 8 or more raises BAD_REGISTER with the
byte as `fault_info`. -/
def withRegister (b : Byte) (s : State) (k : RegIndex → StepOutcome) : StepOutcome :=
  match registerOperand? b with
  | some r => k r
  | none => raise .badRegister (b.setWidth 9) s

/-- An immediate operand: the operand byte unchanged, no extension, scaling or shift (R41). -/
def immediateOperand (b : Byte) : Byte := b

end Sys2Proof.Machine
end

