-- ==== Sys2Proof/Machine/Arithmetic.lean ====
section
/-! DEFINITION. Arithmetic: MULTIPLY (spec/44_alu_multiply.md R70). -/

namespace Sys2Proof.Machine

/-- MULTIPLY (R70): `check_reg(a); check_reg(b); x[a] <- ALU(MUL, x[a], x[b]); pc <- pc + 3`. -/
def execMultiply (a b : Byte) (s : State) : StepOutcome :=
  withRegister a s fun ra => withRegister b s fun rb => aluInstruction .mul ra rb (width opMultiply) s

end Sys2Proof.Machine
end

