-- ==== Sys2Proof/Machine/Flags.lean ====
section
/-! DEFINITION. The status of the engine (spec/10_state.md R17, R18, R23). There are no condition codes and no
instruction sets a flag but `halted` (R19), so there is no other flag computation. -/

namespace Sys2Proof.Machine

/-- Set the halted flag (R17); HALT alone does. -/
def State.setHalted (s : State) : State := { s with halted := true }

/-- The three conditions of the engine (R23). -/
inductive Condition where
  | running
  | halted
  | faulted
deriving DecidableEq, Repr

/-- The condition of the engine, as R23 defines the three. -/
def State.condition (s : State) : Condition :=
  if s.fault ≠ .none then .faulted else if s.halted then .halted else .running

/-- The engine has a next step only while running (R23, R52). -/
def State.isRunning (s : State) : Bool := s.condition == .running

/-- The 3-bit code of a fault on the `fault` port (R18, R22). -/
def FaultCode.code : FaultCode → BitVec 3
  | .none => 0#3
  | .outOfBounds => 1#3
  | .badRegister => 2#3
  | .unsupportedAluOp => 3#3
  | .invalidInstruction => 4#3

end Sys2Proof.Machine
end

