-- ==== Sys2Proof/Machine/Control.lean ====
section
/-! DEFINITION. Machine control: HALT (spec/41_halt.md). -/

namespace Sys2Proof.Machine

/-- HALT (R62): `halted <- true; pc <- pc + 1`. -/
def execHalt (s : State) : StepOutcome := .next (s.setHalted.advance (width opHalt))

end Sys2Proof.Machine
end

