-- ==== Sys2Proof/Machine/Output.lean ====
section
/-! DEFINITION. Output: PRINT-REGISTER, the output port and what the host writes for an event
(spec/43_print_register.md; spec/10_state.md R21, R22). -/

namespace Sys2Proof.Machine

/-- PRINT-REGISTER (R64): `check_reg(a); emit Print(x[a]); pc <- pc + 2`. -/
def execPrintRegister (a : Byte) (s : State) : StepOutcome :=
  withRegister a s fun r => .next ((s.emit (.print (s.readReg r))).advance (width opPrintRegister))

/-- The line the host writes for an event: for `Print(v)` the decimal digits of `v`, unsigned, then LF (R65); for
`Invalid(p, b)` a text the spec does not give (R21, N5; log entry 5). -/
def Event.render : Event → List Char
  | .print v => Nat.toDigits 10 v.toNat ++ ['\n']
  | .invalid p b => Config.diagnosticText p b

/-- The text of an output stream: its events in emission order, none lost, merged or reordered (R66).
DESIGN CHOICE (log entry 16): both kinds of event go to one text; R65 names standard output for `Print` alone, and no
rule names a stream for the diagnostic line of an `Invalid`. -/
def renderOutput (out : List Event) : List Char := out.flatMap Event.render

/-- The signals `out_valid`, `out_kind`, `out_value`, `out_pc` (R22): 1, 1, 8 and 8 bits. -/
structure OutPort where
  valid : Bool
  kind : BitVec 1
  value : Byte
  pc : Byte
deriving DecidableEq, Repr

/-- The output signals for the event of a step, if it emitted one (R22: kind 0 is `Print(out_value)`, kind 1 is
`Invalid(out_pc, out_value)`). What the port carries where R22 names no signal is 0 here. -/
def outPortOf : Option Event → OutPort
  | some (.print v) => { valid := true, kind := 0#1, value := v, pc := 0#8 }
  | some (.invalid p b) => { valid := true, kind := 1#1, value := b, pc := p.setWidth 8 }
  | none => { valid := false, kind := 0#1, value := 0#8, pc := 0#8 }

/-- The output signals of the step from `s` to `t`. -/
def outPort (s t : State) : OutPort := outPortOf (t.out.drop s.out.length).head?

end Sys2Proof.Machine
end

