-- ==== Sys2Proof/Machine/RegisterLoad.lean ====
section
/-! DEFINITION. Register load: SET-IMMEDIATE (spec/42_set_immediate.md). -/

namespace Sys2Proof.Machine

/-- SET-IMMEDIATE (R63): `check_reg(a); x[a] <- b; pc <- pc + 3`. -/
def execSetImmediate (a b : Byte) (s : State) : StepOutcome :=
  withRegister a s fun r => .next ((s.writeReg r (immediateOperand b)).advance (width opSetImmediate))

end Sys2Proof.Machine
end

