-- ==== Sys2Proof/Machine/Dispatch.lean ====
section
/-! DEFINITION. The meaning of each instruction, one arm per constructor of Instr (spec/40_execute_cycle.md R51, R55). -/

namespace Sys2Proof.Machine

def exec (i : Instr) (s : State) : Host.Outcome State Fault Refusal :=
  match i with
  | .halt => Sys2Proof.Machine.execHalt s
  | .printRegister a => Sys2Proof.Machine.execPrintRegister a s
  | .setImmediate a b => Sys2Proof.Machine.execSetImmediate a b s
  | .multiply a b => Sys2Proof.Machine.execMultiply a b s

end Sys2Proof.Machine
end

