-- ==== Sys2Proof/Machine/Fetch.lean ====
section
/-! DEFINITION. The memory address unit and the fetch (spec/20_memory.md R31; spec/40_execute_cycle.md R53). -/

namespace Sys2Proof.Machine

/-- The fetch addresses `pc`, `pc+1`, `pc+2` under `ADDR_POLICY` (R31): under FAULT the lowest one of 256 or more is
answered as the error, whether or not the instruction uses the byte; under WRAP each is taken mod 256. -/
def fetchAddresses (p : AddrPolicy) (pc : PcWord) : Except PcWord (CellAddr × CellAddr × CellAddr) :=
  let a0 := pc.toNat
  let a1 := pc.toNat + 1
  let a2 := pc.toNat + 2
  let cells := (BitVec.ofNat 8 (a0 % 256), BitVec.ofNat 8 (a1 % 256),
    BitVec.ofNat 8 (a2 % 256))
  match p with
  | .wrap => .ok cells
  | .fault =>
    if 256 ≤ a0 then .error (BitVec.ofNat 9 a0)
    else if 256 ≤ a1 then .error (BitVec.ofNat 9 a1)
    else if 256 ≤ a2 then .error (BitVec.ofNat 9 a2)
    else .ok cells

/-- Load the three latches from the three cells (R20, R53). -/
def State.latch (s : State) (a0 a1 a2 : CellAddr) : State :=
  { s with ir := s.mem.read a0, operandA := s.mem.read a1, operandB := s.mem.read a2 }

/-- The fetch of a step (R53): the state with its latches loaded, or the fetch address that is out of bounds, in which
case no byte is read. -/
def fetch (s : State) : Except PcWord State :=
  match fetchAddresses s.params.addrPolicy s.pc with
  | .ok (a0, a1, a2) => .ok (s.latch a0 a1 a2)
  | .error bad => .error bad

/-- The pc that a placed instruction is fetched at: the state's own, or `LOAD_BASE` where a fetch there is out of
bounds (log entry 10). -/
def placePc (s : State) : PcWord :=
  match fetchAddresses s.params.addrPolicy s.pc with
  | .ok _ => s.pc
  | .error _ => BitVec.ofNat 9 Config.loadBase

/-- The engine running, with three bytes stored where its next step fetches them (log entry 10). -/
def State.placeBytes (s : State) (b0 b1 b2 : Byte) : State :=
  let pc := placePc s
  let a (k : Nat) : CellAddr := BitVec.ofNat 8 ((pc.toNat + k) % 256)
  { s with
    mem := ((s.mem.write (a 0) b0).write (a 1) b1).write (a 2) b2
    pc := pc
    halted := false
    fault := .none
    faultInfo := if s.fault = .none then s.faultInfo else 0#9 }

end Sys2Proof.Machine
end

