-- ==== Sys2Proof/Machine/Invalid.lean ====
section
/-! DEFINITION. Invalid instructions: the 252 opcode bytes that are none of the four (spec/45_invalid.md). -/

namespace Sys2Proof.Machine

/-- The opcode byte in `ir` is no instruction: under CONTINUE `emit Invalid(pc, ir); pc <- pc + w` (R73), under FATAL
`raise INVALID_INSTRUCTION(ir)` (R74). -/
def execInvalid (s : State) : StepOutcome :=
  match s.params.invalidPolicy with
  | .continueRun => .next ((s.emit (.invalid s.pc s.ir)).advance (width s.ir))
  | .fatal => raise .invalidInstruction (s.ir.setWidth 9) s

end Sys2Proof.Machine
end

