-- ==== Sys2Proof/Machine/Step.lean ====
section
/-! DEFINITION. One step of the engine (spec/40_execute_cycle.md R51, R52). -/

namespace Sys2Proof.Machine

/-- A step exists only while the engine is running (R52). It fetches, decodes, and runs the instruction or the
invalid-instruction rule; a fetch address out of bounds raises OUT_OF_BOUNDS (R31). -/
def step (s : State) : Host.Outcome State Fault Refusal :=
  match s.condition with
  | .faulted => .fault (.engineFaulted s.fault)
  | .halted => .fault .engineHalted
  | .running =>
    match fetch s with
    | .error bad => raise .outOfBounds bad s
    | .ok s1 =>
      match decode s1.ir s1.operandA s1.operandB with
      | .ok i => exec i s1
      | .error _ => execInvalid s1

/-- The state with a table word (spec/opcode_table.json's numbering, the bits above `nbits` 0) stored where the next
step fetches it (log entry 10). -/
def State.withFetchWord (s : State) (nbits w : Nat) : State :=
  s.placeBytes (tableBytes nbits w).1 (tableBytes nbits w).2.1 (tableBytes nbits w).2.2

end Sys2Proof.Machine
end

