-- ==== Sys2Proof/Machine/Loader.lean ====
section
/-! DEFINITION. The loader: from the program source to the image (spec/30_encoding.md R48, R49) and from the image to
memory (spec/70_reset_and_hazards.md R94, R95). -/

namespace Sys2Proof.Machine

/-- The program source as the host meets it (R95). -/
inductive Source where
  /-- The source cannot be read ("missing file, I/O failure"). -/
  | unreadable
  /-- The text of the source. -/
  | text (chars : List Char)
deriving DecidableEq, Repr

/-- The causes of `LoadError` (R95). It is the host's failure and not a fault of the engine (R89). -/
inductive LoadError where
  | sourceUnreadable
  | literalTooLarge (value : Nat)
  | imageTooLarge (size : Nat)
deriving DecidableEq, Repr

/-- The whitespace characters: space, tab, carriage return, vertical tab, form feed.
DESIGN CHOICE (log entry 6): R48 does not list them. -/
def isSpace (c : Char) : Bool :=
  c == ' ' || c == '\t' || c == '\r' || c == Char.ofNat 11 || c == Char.ofNat 12

/-- The lines of a text. DESIGN CHOICE (log entry 6): a line ends at a line feed. -/
def splitLines : List Char → List (List Char)
  | [] => [[]]
  | c :: cs =>
    if c = '\n' then [] :: splitLines cs
    else
      match splitLines cs with
      | [] => [[c]]
      | l :: ls => (c :: l) :: ls

/-- The leading token of a line: the comment removed from the first `#` on, leading whitespace removed, then the
characters up to the first whitespace character or the end (R48). -/
def leadingToken (line : List Char) : List Char :=
  ((line.takeWhile (· != '#')).dropWhile isSpace).takeWhile (fun c => !isSpace c)

/-- A base-2 literal: only the characters `0` and `1`, one or more of them (R49). -/
def isBinaryLiteral (tok : List Char) : Bool := !tok.isEmpty && tok.all (fun c => c == '0' || c == '1')

/-- The unsigned binary number a literal spells, most significant digit first (R49). -/
def binaryValue (tok : List Char) : Nat := tok.foldl (fun n c => 2 * n + if c = '1' then 1 else 0) 0

/-- What a line gives: a byte, nothing (it is skipped), or the failure of the load (R49). -/
def lineByte (line : List Char) : Except LoadError (Option Byte) :=
  let tok := leadingToken line
  if isBinaryLiteral tok then
    if binaryValue tok < 256 then .ok (some (BitVec.ofNat 8 (binaryValue tok)))
    else .error (.literalTooLarge (binaryValue tok))
  else .ok none

/-- The bytes of the accepted lines, in source order (R94). -/
def bytesOfLines : List (List Char) → Except LoadError (List Byte)
  | [] => .ok []
  | l :: ls =>
    match lineByte l with
    | .error e => .error e
    | .ok b =>
      match bytesOfLines ls with
      | .error e => .error e
      | .ok bs => .ok (b.toList ++ bs)

/-- The image of a source, or the LoadError of R95 (which cause is reported first: log entry 7). -/
def assemble : Source → Except LoadError (List Byte)
  | .unreadable => .error .sourceUnreadable
  | .text cs =>
    match bytesOfLines (splitLines cs) with
    | .error e => .error e
    | .ok bs => if bs.length ≤ 256 then .ok bs else .error (.imageTooLarge bs.length)

/-- `MemWrite(a, 1, b[0])`, `MemWrite(a+1, 1, b[1])`, … in that order (R94). -/
def Memory.writeFrom (m : Memory) (a : Nat) : List Byte → Memory
  | [] => m
  | b :: bs => (m.write (BitVec.ofNat 8 a) b).writeFrom (a + 1) bs

/-- The image written from `LOAD_BASE` on (R94). The bytes are not checked to be instructions. -/
def State.loadImage (s : State) (img : List Byte) : State :=
  { s with mem := s.mem.writeFrom Config.loadBase img }

/-- The memory whose 256 cells hold the given values. -/
def Memory.ofCells (cells : Vector Byte 256) : Memory := Memory.empty.writeFrom 0 cells.toList

/-- The core after a failed load: "Memory is left as the failed load left it" (R95), `fault` stays `NONE` (R89), and
nothing else changes either. FREE VALUE (log entry 8): no rule says what `left` is. -/
def State.failLoad (s : State) (left : Vector Byte 256) : State := { s with mem := Memory.ofCells left }

end Sys2Proof.Machine
end

