-- ==== Sys2Proof/Machine/Run.lean ====
section
/-! DEFINITION. The run (spec/40_execute_cycle.md R59): steps, one after another, for as long as the engine is running. -/

namespace Sys2Proof.Machine

/-- The state after the first `n` steps of the run from `s`, or the state the run ended in if it ended before (R59).
A run that never ends has a state for every `n` (R61). -/
def runFor : Nat → State → State
  | 0, s => s
  | n + 1, s =>
    match step s with
    | .next t => runFor n t
    | .fault _ => s
    | .refused _ => s

end Sys2Proof.Machine
end

