-- ==== Sys2Proof/Machine/Session.lean ====
section
/-! DEFINITION. One use of the engine as the host sees it: reset, load, run, inspect
(spec/70_reset_and_hazards.md R93 to R98; spec/10_state.md R22). The lifecycle is the host's and not the machine's
state (log entry 9). -/

namespace Sys2Proof.Machine

/-- Where one use of the engine stands (R93, R98). -/
inductive Session where
  /-- After reset, before a load. -/
  | ready (s : State)
  /-- The load failed: the core keeps its state, its memory "as the failed load left it", and the run is never started
  (R89, R95). -/
  | loadFailed (s : State) (e : LoadError)
  /-- The image is loaded and the run not started. -/
  | loaded (s : State)
  /-- The run is started; it has ended when the engine is not running (R59). -/
  | started (s : State)
deriving DecidableEq, Repr

/-- A host action that the spec does not allow where it is tried (R96, R98, U12): it is refused and changes nothing. -/
inductive HostRefusal where
  /-- A load that is not after reset and before the run: a second load, or a write during the run. -/
  | loadNotAllowed
  /-- A start with no successful load. -/
  | nothingLoaded
  /-- A start while the engine is running. -/
  | alreadyRunning
  /-- An inspection before the run has ended. -/
  | runNotEnded
deriving DecidableEq, Repr

/-- What the host reads after the run (R22 `inspect`, `halted`, `fault`, `fault_info`; R96). -/
structure Inspection where
  x : Vector Byte 8
  mem : Memory
  pc : PcWord
  halted : Bool
  fault : BitVec 3
  faultInfo : PcWord
deriving DecidableEq, Repr

/-- The state of the core. -/
def Session.state : Session → State
  | .ready s => s
  | .loadFailed s _ => s
  | .loaded s => s
  | .started s => s

/-- The parameters of the machine of a session. -/
def Session.params (h : Session) : Params := h.state.params

/-- Reset, allowed at any time (R96): every state element at its reset value (R90). -/
def Session.reset (h : Session) : Session := .ready (State.resetWith h.params)

/-- Load, allowed after reset and before the run (R96); a second load without a reset is refused (R98). `left` is what
memory holds if the load fails: a free value, an input from outside the machine (log entry 8). -/
def Session.load (src : Source) (left : Vector Byte 256) : Session → Except HostRefusal Session
  | .ready s =>
    match assemble src with
    | .ok img => .ok (.loaded (s.loadImage img))
    | .error e => .ok (.loadFailed (s.failLoad left) e)
  | .loadFailed _ _ => .error .loadNotAllowed
  | .loaded _ => .error .loadNotAllowed
  | .started _ => .error .loadNotAllowed

/-- Start the run, after a successful load (R96). On a halted or faulted engine it takes no step (R59; log entry 14). -/
def Session.start : Session → Except HostRefusal Session
  | .ready _ => .error .nothingLoaded
  | .loadFailed _ _ => .error .nothingLoaded
  | .loaded s => .ok (.started s)
  | .started s => if s.isRunning then .error .alreadyRunning else .ok (.started s)

/-- `n` further steps of a started run, or as many as it has (R59); before the start, and after a failed load, the engine takes none. -/
def Session.runSteps (n : Nat) : Session → Session
  | .ready s => .ready s
  | .loadFailed s e => .loadFailed s e
  | .loaded s => .loaded s
  | .started s => .started (runFor n s)

/-- Inspect, after the run has ended (R96). -/
def Session.inspect : Session → Except HostRefusal Inspection
  | .ready _ => .error .runNotEnded
  | .loadFailed _ _ => .error .runNotEnded
  | .loaded _ => .error .runNotEnded
  | .started s =>
    if s.isRunning then .error .runNotEnded
    else .ok { x := s.x, mem := s.mem, pc := s.pc, halted := s.halted, fault := s.fault.code, faultInfo := s.faultInfo }

/-- The events the host has accepted, in order, every one emitted (R66, R96).
DESIGN CHOICE (log entry 15): an event counts as accepted as soon as its step has ended; R59 does not say when the host
sees it. -/
def Session.events (h : Session) : List Event := h.state.out

end Sys2Proof.Machine
end

