-- ==== Sys2Proof/Safety.lean ====
section
/-! DEFINITION. What holds of every state a run can reach, and what a good end of a run is. -/

namespace Sys2Proof.Machine

/-- The byte at the fetch address `pc + k`, the address mod 256 (R31 under WRAP; under FAULT a fetch is made only where
the address is below 256). -/
def State.byteAt (s : State) (k : Nat) : Byte := s.mem.read (BitVec.ofNat 8 (s.pc.toNat + k))

/-- The state of a step after its fetch: the latches hold the bytes at `pc`, `pc+1` and `pc+2` (R53). -/
def State.fetched (s : State) : State :=
  { s with ir := s.byteAt 0, operandA := s.byteAt 1, operandB := s.byteAt 2 }

/-- No fetch address is out of bounds: under FAULT all three are below 256 (R31). -/
def fetchInBounds (s : State) : Prop := s.params.addrPolicy = .fault → s.pc.toNat + 2 < 256

/-- The lowest of `pc`, `pc+1`, `pc+2` that is 256 or more, where one is (R18, R31). -/
def outOfBoundsAddr (pc : PcWord) : PcWord := if pc.toNat < 256 then 256#9 else pc

/-- The range of `pc`: 0 to 257 under FAULT, 8 bits under WRAP (R5, R16, R60). -/
def pcInRange (p : AddrPolicy) (pc : PcWord) : Prop :=
  match p with
  | .fault => pc.toNat ≤ 257
  | .wrap => pc.toNat < 256

/-- The fault status agrees with R18 and R78: what `fault_info` holds for each code, and under which policy a code can
be there at all. -/
def faultStatusLegal (s : State) : Prop :=
  match s.fault with
  | .none => s.faultInfo = 0#9
  | .outOfBounds =>
      s.params.addrPolicy = .fault ∧ 254 ≤ s.pc.toNat ∧ s.faultInfo.toNat = max 256 s.pc.toNat
  | .badRegister => 8 ≤ s.faultInfo.toNat ∧ s.faultInfo.toNat ≤ 255
  | .unsupportedAluOp => False
  | .invalidInstruction =>
      s.params.invalidPolicy = .fatal ∧ isOpcode s.ir = false ∧ s.faultInfo = s.ir.setWidth 9

/-- An event that a run under the given parameters can have emitted (R21, R73). -/
def eventLegal (p : Params) : Event → Prop
  | .print _ => True
  | .invalid a b => p.invalidPolicy = .continueRun ∧ isOpcode b = false ∧ a.toNat < 256

/-- The invariant of the machine. That every cell and register is in 0 to 255 (R12) holds by their types. -/
structure State.Inv (s : State) : Prop where
  /-- Memory is in its canonical form. -/
  memCanonical : s.mem.wf = true
  /-- `pc` is in its range. -/
  pcRange : pcInRange s.params.addrPolicy s.pc
  /-- `halted = true` together with `fault ≠ NONE` is unreachable (R23). -/
  haltedNotFaulted : s.halted = true → s.fault = .none
  /-- The fault status is one that R18 lists. -/
  faultStatus : faultStatusLegal s
  /-- Every event of `out` is one a step can emit. -/
  events : ∀ e ∈ s.out, eventLegal s.params e

/-- The run from `s` ends well: "Only the halted outcome is a successful end" (R59). -/
def endsWell (s : State) : Prop := ∃ n, (runFor n s).condition = .halted

end Sys2Proof.Machine
end

