-- ==== Sys2Proof/Certificates/Slice0/Obligations.lean ====
section
/-! DEFINITION. The statements about the LS-8 CORE, for the provers. Each docstring names the rule of spec/ it states. -/

open Sys2Proof Sys2Proof.Machine

/-! ### Encoding -/

/-- R43: the four rows of the opcode map, each opcode byte written out: its instruction with the operand bytes it
uses, its operand count and width, and its encoding. -/
def Obligations.OpcodeMapRows : Prop :=
  (∀ a b, decode 0b00000001#8 a b = .ok .halt) ∧
  (∀ a b, decode 0b01000111#8 a b = .ok (.printRegister a)) ∧
  (∀ a b, decode 0b10000010#8 a b = .ok (.setImmediate a b)) ∧
  (∀ a b, decode 0b10100010#8 a b = .ok (.multiply a b)) ∧
  operandCount 0x01#8 = 0 ∧ operandCount 0x47#8 = 1 ∧ operandCount 0x82#8 = 2 ∧ operandCount 0xA2#8 = 2 ∧
  width 0x01#8 = 1 ∧ width 0x47#8 = 2 ∧ width 0x82#8 = 3 ∧ width 0xA2#8 = 3 ∧
  encode .halt = [0x01#8] ∧
  (∀ a, encode (.printRegister a) = [0x47#8, a]) ∧
  (∀ a b, encode (.setImmediate a b) = [0x82#8, a, b]) ∧
  (∀ a b, encode (.multiply a b) = [0xA2#8, a, b])

/-- R42: dispatch is by the exact value of the whole opcode byte; two different opcode bytes select different rows,
and a byte of none of the four rows is an invalid instruction. -/
def Obligations.ExactByteDispatch : Prop :=
  (∀ ir a b i, decode ir a b = .ok i → ir ∈ [0x01#8, 0x47#8, 0x82#8, 0xA2#8] ∧ i.opcode = ir) ∧
  (∀ ir ir' a b a' b' i i', decode ir a b = .ok i → decode ir' a' b' = .ok i' → ir ≠ ir' →
    i.opcode ≠ i'.opcode ∧ i ≠ i') ∧
  (∀ ir a b, ir ∉ [0x01#8, 0x47#8, 0x82#8, 0xA2#8] → decode ir a b = .error (.invalidOpcode ir))

/-- R39: for every opcode byte, valid or invalid, the operand count is the value of its top two bits and the width is
that plus 1; for the four instructions it is the number of bytes of the encoding, opcode byte and operands. -/
def Obligations.WidthFromTopTwoBits : Prop :=
  (∀ ir : Byte, operandCount ir = ir.toNat / 64 ∧ width ir = ir.toNat / 64 + 1) ∧
  (∀ (ir a b : Byte) (i : Instr), decode ir a b = .ok i → (encode i).length = width ir)

/-- Decoding an encoded instruction gives it back, every operand at every value, and leaves the bytes after it. -/
def Obligations.DecodeOfEncode : Prop :=
  ∀ (i : Instr) (rest : List Byte), decodeBytes (encode i ++ rest) = .ok (i, rest)

/-- A byte sequence that decodes is the encoding of its instruction followed by the bytes left over: no instruction
has a second encoding. -/
def Obligations.EncodeOfDecode : Prop :=
  ∀ (bs : List Byte) (i : Instr) (rest : List Byte), decodeBytes bs = .ok (i, rest) → bs = encode i ++ rest

/-- The bytes of an instruction packed into a word, first byte lowest, decode as a table word of that many bits. -/
def Obligations.TableWordOfEncode : Prop :=
  ∀ i : Instr, decodeTableWord (8 * (encode i).length) ((encode i).foldr (fun b w => b.toNat + 256 * w) 0) = some i

/-! ### Reset and the loader -/

/-- R90: reset puts every state element at its value, and it is the only action that leaves the halted or faulted
condition: no step, run, load or start does. -/
def Obligations.ResetState : Prop :=
  (∀ (p : Params) (h : Session), h.params = p → ∃ s, h.reset = .ready s ∧
    (∀ a : CellAddr, s.mem.read a = 0#8) ∧
    (∀ r : RegIndex, r.val < 7 → s.readReg r = 0#8) ∧ s.readReg 7 = 0xF4#8 ∧
    s.pc = 0#9 ∧ s.halted = false ∧ s.fault = .none ∧ s.faultInfo = 0#9 ∧
    s.ir = 0#8 ∧ s.operandA = 0#8 ∧ s.operandB = 0#8 ∧ s.out = [] ∧ s.params = p) ∧
  (∀ s : State, s.isRunning = false →
    (∀ t, step s ≠ .next t) ∧
    (∀ (h : Session) (src : Source) (left : Vector Byte 256) (n : Nat),
      (Session.load src left (.started s) = .ok h ∨ Session.start (.started s) = .ok h ∨
        (Session.started s).runSteps n = h) → h = .started s))

/-- R94: the image of a source is the bytes of its accepted lines, one byte a line, in source order; they stand from
address 0 on, whatever they are; the cells after them keep their reset value 0, and nothing but memory changes. -/
def Obligations.LoaderPlacesImage : Prop :=
  (∀ (ls : List (List Char)) (bs : List Byte), bytesOfLines ls = .ok bs →
    bs = ls.filterMap (fun l => match lineByte l with | .ok b => b | .error _ => none)) ∧
  (∀ (cs : List Char) (img : List Byte), assemble (.text cs) = .ok img →
    img = (splitLines cs).filterMap (fun l => match lineByte l with | .ok b => b | .error _ => none) ∧
    img.length ≤ 256) ∧
  (∀ (p : Params) (img : List Byte), img.length ≤ 256 →
    (∀ a : CellAddr, ((State.resetWith p).loadImage img).mem.read a = img.getD a.toNat 0#8) ∧
    (State.resetWith p).loadImage img =
      { State.resetWith p with mem := ((State.resetWith p).loadImage img).mem })

/-- R48 and R49, the whitespace characters and the line end being the model's choice (log entry 6): a line is leading
whitespace, a token of one or more characters 0 and 1, and then the end, whitespace or a comment, and gives the byte
the token spells or fails the load when that is above 255; any other line is skipped. The lines of a text are what
stands between its line feeds, in order. -/
def Obligations.LineGrammar : Prop :=
  (∀ (ws tok tail : List Char), (∀ c ∈ ws, isSpace c = true) → tok ≠ [] → (∀ c ∈ tok, c = '0' ∨ c = '1') →
    (∀ c ∈ tail.head?, isSpace c = true ∨ c = '#') →
    (Nat.ofDigits 2 (tok.reverse.map fun c => if c = '1' then 1 else 0) < 256 →
      lineByte (ws ++ tok ++ tail) =
        .ok (some (BitVec.ofNat 8 (Nat.ofDigits 2 (tok.reverse.map fun c => if c = '1' then 1 else 0))))) ∧
    (256 ≤ Nat.ofDigits 2 (tok.reverse.map fun c => if c = '1' then 1 else 0) →
      ∃ e, lineByte (ws ++ tok ++ tail) = .error e)) ∧
  (∀ line : List Char,
    (¬ ∃ ws tok tail, line = ws ++ tok ++ tail ∧ (∀ c ∈ ws, isSpace c = true) ∧ tok ≠ [] ∧
      (∀ c ∈ tok, c = '0' ∨ c = '1') ∧ (∀ c ∈ tail.head?, isSpace c = true ∨ c = '#')) →
    lineByte line = .ok none) ∧
  (∀ cs : List Char, splitLines cs ≠ [] ∧ ['\n'].intercalate (splitLines cs) = cs ∧
    ∀ l ∈ splitLines cs, '\n' ∉ l)

/-- R95: the load fails exactly when the source is unreadable, a literal's value is above 255, or there are more than
256 bytes; memory is then what the failed load left, whatever that is, and the run is never started. -/
def Obligations.LoadErrorExactly : Prop :=
  (∀ src : Source, (∃ e, assemble src = .error e) ↔
    src = .unreadable ∨
    ∃ cs, src = .text cs ∧
      ((∃ l ∈ splitLines cs, isBinaryLiteral (leadingToken l) = true ∧ 255 < binaryValue (leadingToken l)) ∨
        256 < (splitLines cs).countP (fun l => isBinaryLiteral (leadingToken l)))) ∧
  (∀ (s : State) (src : Source) (left : Vector Byte 256) (e : LoadError), assemble src = .error e →
    ∃ h, Session.load src left (.ready s) = .ok h ∧
      (∀ a : CellAddr, h.state.mem.read a = left[a.toNat]'a.isLt) ∧
      (∃ r, h.start = .error r) ∧ ∀ n, h.runSteps n = h)

/-- What the host can do, and when, by the table of R96 and by R98 (the refusals' names are the model's, log entry 9).
Reset is allowed at any time; a load only after reset and before the run, a second one being refused, after a failed
load too; a start only after a successful load (that a second start is refused while the engine runs and changes
nothing after that is the model's, log entry 14, from R59); an inspection only after the run has ended, giving the
registers, memory, pc, halted, fault and fault_info, and refused before the start, after a failed load and while the
engine runs; the engine steps only in a started run. The events accepted of a started run are those of `out` (that
each counts as accepted when its step has ended is the model's, log entry 15). -/
def Obligations.HostActions : Prop :=
  (∀ h : Session, h.reset = .ready (State.resetWith h.params)) ∧
  (∀ s src left img, assemble src = .ok img →
    Session.load src left (.ready s) = .ok (.loaded (s.loadImage img))) ∧
  (∀ s src left e, Session.load src left (.loaded s) = .error .loadNotAllowed ∧
    Session.load src left (.loadFailed s e) = .error .loadNotAllowed ∧
    Session.load src left (.started s) = .error .loadNotAllowed) ∧
  (∀ s e, Session.start (.loaded s) = .ok (.started s) ∧ Session.start (.ready s) = .error .nothingLoaded ∧
    Session.start (.loadFailed s e) = .error .nothingLoaded) ∧
  (∀ s, (s.isRunning = true → Session.start (.started s) = .error .alreadyRunning) ∧
    (s.isRunning = false → Session.start (.started s) = .ok (.started s))) ∧
  (∀ s e n, (Session.ready s).runSteps n = .ready s ∧ (Session.loaded s).runSteps n = .loaded s ∧
    (Session.loadFailed s e).runSteps n = .loadFailed s e ∧
    (Session.started s).runSteps n = .started (runFor n s)) ∧
  (∀ s e, Session.inspect (.ready s) = .error .runNotEnded ∧ Session.inspect (.loaded s) = .error .runNotEnded ∧
    Session.inspect (.loadFailed s e) = .error .runNotEnded) ∧
  (∀ s, s.isRunning = true → Session.inspect (.started s) = .error .runNotEnded) ∧
  (∀ s, s.isRunning = false → ∃ v, Session.inspect (.started s) = .ok v ∧
    v.x = s.x ∧ v.mem = s.mem ∧ v.pc = s.pc ∧ v.halted = s.halted ∧ v.fault = s.fault.code ∧
    v.faultInfo = s.faultInfo) ∧
  (∀ s, (Session.started s).events = s.out)

/-! ### The step -/

/-- R52: a step exists only while the engine is running, and while it is running there is one. -/
def Obligations.StepExistsExactlyWhileRunning : Prop :=
  ∀ s : State, (∃ t, step s = .next t) ↔ (s.halted = false ∧ s.fault = .none)

/-- Where the engine has no step, the model's step answers a fault by name (the model's choice, log entry 2). -/
def Obligations.StoppedEngineNamed : Prop :=
  ∀ s : State, (s.fault ≠ .none → step s = .fault (.engineFaulted s.fault)) ∧
    (s.fault = .none → s.halted = true → step s = .fault .engineHalted)

/-- A step of a running engine, its fetch in bounds, is exec of the instruction its three bytes decode to, at the
state with the latches loaded; where they decode to none, it is the invalid-instruction rule there. -/
def Obligations.StepRunsDecodedInstruction : Prop :=
  ∀ s : State, s.halted = false → s.fault = .none → fetchInBounds s →
    (∀ i, decode (s.byteAt 0) (s.byteAt 1) (s.byteAt 2) = .ok i → step s = exec i s.fetched) ∧
    (∀ r, decode (s.byteAt 0) (s.byteAt 1) (s.byteAt 2) = .error r → step s = execInvalid s.fetched)

/-- R31: under FAULT the lowest of `pc`, `pc+1`, `pc+2` that is 256 or more is reported and no byte is read, whatever
the instruction; otherwise the three bytes are read into the latches, under WRAP at the addresses mod 256. -/
def Obligations.FetchFollowsAddressUnit : Prop :=
  (∀ (s : State) (k : Nat), s.params.addrPolicy = .fault → k < 3 → 256 ≤ s.pc.toNat + k →
    (∀ j < k, s.pc.toNat + j < 256) → fetch s = .error (BitVec.ofNat 9 (s.pc.toNat + k))) ∧
  (∀ s : State, s.params.addrPolicy = .fault → s.pc.toNat + 2 < 256 →
    fetch s = .ok { s with
      ir := s.mem.read (BitVec.ofNat 8 s.pc.toNat)
      operandA := s.mem.read (BitVec.ofNat 8 (s.pc.toNat + 1))
      operandB := s.mem.read (BitVec.ofNat 8 (s.pc.toNat + 2)) }) ∧
  (∀ s : State, s.params.addrPolicy = .wrap →
    fetch s = .ok { s with
      ir := s.mem.read (BitVec.ofNat 8 (s.pc.toNat % 256))
      operandA := s.mem.read (BitVec.ofNat 8 ((s.pc.toNat + 1) % 256))
      operandB := s.mem.read (BitVec.ofNat 8 ((s.pc.toNat + 2) % 256)) })

/-- Under FAULT a step that starts at 254 or 255 raises OUT_OF_BOUNDS(256), whatever its instruction, and one that
starts at 256 or above raises OUT_OF_BOUNDS(pc): the consequence that R31 marks "derived: from this rule". -/
def Obligations.OutOfBoundsStep : Prop :=
  ∀ s : State, s.halted = false → s.fault = .none → s.params.addrPolicy = .fault →
    (s.pc.toNat = 254 ∨ s.pc.toNat = 255 → step s = .next { s with fault := .outOfBounds, faultInfo := 256#9 }) ∧
    (256 ≤ s.pc.toNat → step s = .next { s with fault := .outOfBounds, faultInfo := s.pc })

/-- R53: the fetch loads the three latches, for every opcode; after OUT_OF_BOUNDS they keep their old values and
nothing else of the step happens. -/
def Obligations.FetchLoadsLatches : Prop :=
  ∀ s t : State, step s = .next t →
    (fetchInBounds s → t.ir = s.byteAt 0 ∧ t.operandA = s.byteAt 1 ∧ t.operandB = s.byteAt 2) ∧
    (¬ fetchInBounds s → t = { s with fault := .outOfBounds, faultInfo := outOfBoundsAddr s.pc })

/-- R57: a step that does not raise advances `pc` by the width of its opcode byte, the sum kept whole under FAULT and
taken mod 256 under WRAP; a step that raises leaves `pc` at its instruction; and a step from a sum of 256 or more
faults at its fetch. -/
def Obligations.AdvanceByWidth : Prop :=
  ∀ s t : State, step s = .next t →
    (t.fault = .none → s.params.addrPolicy = .fault → t.pc.toNat = s.pc.toNat + width (s.byteAt 0)) ∧
    (t.fault = .none → s.params.addrPolicy = .wrap → t.pc.toNat = (s.pc.toNat + width (s.byteAt 0)) % 256) ∧
    (t.fault ≠ .none → t.pc = s.pc) ∧
    (∀ u : State, s.params.addrPolicy = .fault → 256 ≤ t.pc.toNat → step t = .next u → u.fault = .outOfBounds)

/-- R55 (its inference, marked "derived: from the arms of rule R51"): a step makes at most one register write and
emits at most one event, writes no memory, and writes the halted flag only where the opcode byte is HALT's. -/
def Obligations.StepEffectsBounded : Prop :=
  ∀ s t : State, step s = .next t →
    (∃ (r : RegIndex) (v : Byte), t.x = s.x ∨ t.x = s.x.set r.val v) ∧
    (t.out = s.out ∨ ∃ e, t.out = s.out ++ [e]) ∧
    (∀ a : CellAddr, t.mem.read a = s.mem.read a) ∧ t.mem = s.mem ∧
    (t.halted ≠ s.halted → s.byteAt 0 = 0x01#8)

/-- What a step does rests on the opcode byte and the operand bytes its instruction uses and on nothing else of
memory: two states alike but for memory, whose opcode bytes and used operand bytes are the same, step to states alike
but for memory and the two operand latches (R47, R40). -/
def Obligations.UnusedBytesIgnored : Prop :=
  ∀ (s t u : State) (m : Memory),
    ({ s with mem := m } : State).byteAt 0 = s.byteAt 0 →
    (s.byteAt 0 ∈ [0x47#8, 0x82#8, 0xA2#8] → ({ s with mem := m } : State).byteAt 1 = s.byteAt 1) →
    (s.byteAt 0 ∈ [0x82#8, 0xA2#8] → ({ s with mem := m } : State).byteAt 2 = s.byteAt 2) →
    step s = .next t → step { s with mem := m } = .next u →
    { u with mem := t.mem, operandA := t.operandA, operandB := t.operandB } = t

/-! ### The instructions, in a step -/

/-- R62: HALT. Its byte 0x01 at the fetch address sets the halted flag and advances `pc` by 1, its operand bytes not
checked, with nothing else changed but the latches; out of bounds the step raises OUT_OF_BOUNDS. -/
def Obligations.HaltStep : Prop :=
  encode .halt = [0x01#8] ∧
  ∀ s : State, s.halted = false → s.fault = .none → s.byteAt 0 = 0x01#8 →
    (fetchInBounds s → step s = .next { s.fetched with
      halted := true
      pc := nextPc s.params.addrPolicy s.pc 1 }) ∧
    (¬ fetchInBounds s → step s = .next { s with fault := .outOfBounds, faultInfo := outOfBoundsAddr s.pc })

/-- R63: SET-IMMEDIATE. The bytes 0x82, a, b write b to register a, any of the eight, and advance `pc` by 3; a of 8 or
more raises BAD_REGISTER(a) with no write; out of bounds the step raises OUT_OF_BOUNDS. Nothing else changes but the
latches. -/
def Obligations.SetImmediateStep : Prop :=
  (∀ a b, encode (.setImmediate a b) = [0x82#8, a, b]) ∧
  ∀ s : State, s.halted = false → s.fault = .none → s.byteAt 0 = 0x82#8 →
    (∀ ra : RegIndex, fetchInBounds s → (s.byteAt 1).toNat = ra.val → step s = .next { s.fetched with
      x := s.x.set ra.val (s.byteAt 2)
      pc := nextPc s.params.addrPolicy s.pc 3 }) ∧
    (fetchInBounds s → 8 ≤ (s.byteAt 1).toNat → step s = .next { s.fetched with
      fault := .badRegister
      faultInfo := (s.byteAt 1).setWidth 9 }) ∧
    (¬ fetchInBounds s → step s = .next { s with fault := .outOfBounds, faultInfo := outOfBoundsAddr s.pc })

/-- R64: PRINT-REGISTER. The bytes 0x47, a emit `Print` of register a, any of the eight, and advance `pc` by 2; a of 8
or more raises BAD_REGISTER(a) with no event; out of bounds the step raises OUT_OF_BOUNDS. Nothing else changes but
the latches. -/
def Obligations.PrintRegisterStep : Prop :=
  (∀ a, encode (.printRegister a) = [0x47#8, a]) ∧
  ∀ s : State, s.halted = false → s.fault = .none → s.byteAt 0 = 0x47#8 →
    (∀ ra : RegIndex, fetchInBounds s → (s.byteAt 1).toNat = ra.val → step s = .next { s.fetched with
      out := s.out ++ [.print (s.readReg ra)]
      pc := nextPc s.params.addrPolicy s.pc 2 }) ∧
    (fetchInBounds s → 8 ≤ (s.byteAt 1).toNat → step s = .next { s.fetched with
      fault := .badRegister
      faultInfo := (s.byteAt 1).setWidth 9 }) ∧
    (¬ fetchInBounds s → step s = .next { s with fault := .outOfBounds, faultInfo := outOfBoundsAddr s.pc })

/-- R70: MULTIPLY. The bytes 0xA2, a, b write the product of registers a and b, as they were before the step, mod 256,
to register a and advance `pc` by 3; a, or else b, of 8 or more raises BAD_REGISTER with no write; out of bounds the
step raises OUT_OF_BOUNDS. Nothing else changes but the latches. -/
def Obligations.MultiplyStep : Prop :=
  (∀ a b, encode (.multiply a b) = [0xA2#8, a, b]) ∧
  ∀ s : State, s.halted = false → s.fault = .none → s.byteAt 0 = 0xA2#8 →
    (∀ ra rb : RegIndex, fetchInBounds s → (s.byteAt 1).toNat = ra.val → (s.byteAt 2).toNat = rb.val →
      step s = .next { s.fetched with
        x := s.x.set ra.val (BitVec.ofNat 8 ((s.readReg ra).toNat * (s.readReg rb).toNat % 256))
        pc := nextPc s.params.addrPolicy s.pc 3 }) ∧
    (fetchInBounds s → 8 ≤ (s.byteAt 1).toNat → step s = .next { s.fetched with
      fault := .badRegister
      faultInfo := (s.byteAt 1).setWidth 9 }) ∧
    (fetchInBounds s → (s.byteAt 1).toNat < 8 → 8 ≤ (s.byteAt 2).toNat → step s = .next { s.fetched with
      fault := .badRegister
      faultInfo := (s.byteAt 2).setWidth 9 }) ∧
    (¬ fetchInBounds s → step s = .next { s with fault := .outOfBounds, faultInfo := outOfBoundsAddr s.pc })

/-- R73: an invalid instruction under CONTINUE emits `Invalid(pc, ir)` and advances `pc` by `ir[7:6] + 1`, its operand
bytes not checked; out of bounds the step raises OUT_OF_BOUNDS. Nothing else changes but the latches. -/
def Obligations.InvalidInstructionContinues : Prop :=
  ∀ s : State, s.halted = false → s.fault = .none → s.params.invalidPolicy = .continueRun →
    s.byteAt 0 ∉ [0x01#8, 0x47#8, 0x82#8, 0xA2#8] →
    (fetchInBounds s → step s = .next { s.fetched with
      out := s.out ++ [.invalid s.pc (s.byteAt 0)]
      pc := nextPc s.params.addrPolicy s.pc ((s.byteAt 0).toNat / 64 + 1) }) ∧
    (¬ fetchInBounds s → step s = .next { s with fault := .outOfBounds, faultInfo := outOfBoundsAddr s.pc })

/-- R74: an invalid instruction under FATAL raises INVALID_INSTRUCTION with the opcode byte: no event, `pc` not
advanced; OUT_OF_BOUNDS at the fetch takes precedence. -/
def Obligations.InvalidInstructionFatal : Prop :=
  ∀ s : State, s.halted = false → s.fault = .none → s.params.invalidPolicy = .fatal →
    s.byteAt 0 ∉ [0x01#8, 0x47#8, 0x82#8, 0xA2#8] →
    (fetchInBounds s → step s = .next { s.fetched with
      fault := .invalidInstruction
      faultInfo := (s.byteAt 0).setWidth 9 }) ∧
    (¬ fetchInBounds s → step s = .next { s with fault := .outOfBounds, faultInfo := outOfBoundsAddr s.pc })

/-! ### The instructions: completion, faults and frames -/

/-- HALT completes at every state. -/
def Obligations.HaltCompletes : Prop :=
  ∀ s : State, exec .halt s = .next { s with halted := true, pc := nextPc s.params.addrPolicy s.pc 1 }

/-- SET-IMMEDIATE completes at every state, for every register and immediate. -/
def Obligations.SetImmediateCompletes : Prop :=
  ∀ (a b : Byte) (ra : RegIndex) (s : State), a.toNat = ra.val →
    exec (.setImmediate a b) s =
      .next { s with x := s.x.set ra.val b, pc := nextPc s.params.addrPolicy s.pc 3 }

/-- PRINT-REGISTER completes at every state, for every register. -/
def Obligations.PrintRegisterCompletes : Prop :=
  ∀ (a : Byte) (ra : RegIndex) (s : State), a.toNat = ra.val →
    exec (.printRegister a) s =
      .next { s with out := s.out ++ [.print (s.readReg ra)], pc := nextPc s.params.addrPolicy s.pc 2 }

/-- MULTIPLY completes at every state, for every pair of registers, the same register twice among them. -/
def Obligations.MultiplyCompletes : Prop :=
  ∀ (a b : Byte) (ra rb : RegIndex) (s : State), a.toNat = ra.val → b.toNat = rb.val →
    exec (.multiply a b) s =
      .next { s with
        x := s.x.set ra.val (BitVec.ofNat 8 ((s.readReg ra).toNat * (s.readReg rb).toNat % 256))
        pc := nextPc s.params.addrPolicy s.pc 3 }

/-- R56: a register-index operand of 8 or more raises BAD_REGISTER with the operand byte, operand_a before operand_b,
and changes nothing else; an operand that is not a register index is not checked. -/
def Obligations.RegisterIndexCheck : Prop :=
  ∀ (a b : Byte) (s : State),
    (8 ≤ a.toNat →
      exec (.setImmediate a b) s = .next { s with fault := .badRegister, faultInfo := a.setWidth 9 } ∧
      exec (.printRegister a) s = .next { s with fault := .badRegister, faultInfo := a.setWidth 9 } ∧
      exec (.multiply a b) s = .next { s with fault := .badRegister, faultInfo := a.setWidth 9 }) ∧
    (a.toNat < 8 → 8 ≤ b.toNat →
      exec (.multiply a b) s = .next { s with fault := .badRegister, faultInfo := b.setWidth 9 }) ∧
    (a.toNat < 8 →
      (∃ t, exec (.setImmediate a b) s = .next t ∧ t.fault = s.fault) ∧
      (∃ t, exec (.printRegister a) s = .next t ∧ t.fault = s.fault)) ∧
    (∃ t, exec .halt s = .next t ∧ t.fault = s.fault)

/-- The frame of SET-IMMEDIATE and MULTIPLY: every register but the one operand_a names, every byte of memory, the
output, the halted flag, the latches and the parameters are unchanged; the fault status is unchanged where the
operands name registers, and where they do not, every register and `pc` are. -/
def Obligations.RegisterWriteFrame : Prop :=
  ∀ (a b : Byte) (i : Instr) (s t : State), (i = .setImmediate a b ∨ i = .multiply a b) → exec i s = .next t →
    (∀ r : RegIndex, r.val ≠ a.toNat → t.readReg r = s.readReg r) ∧
    (∀ c : CellAddr, t.mem.read c = s.mem.read c) ∧
    t.out = s.out ∧ t.halted = s.halted ∧ t.ir = s.ir ∧ t.operandA = s.operandA ∧ t.operandB = s.operandB ∧
    t.params = s.params ∧
    (i.wellFormed = true → t.fault = s.fault ∧ t.faultInfo = s.faultInfo) ∧
    (i.wellFormed = false → t.x = s.x ∧ t.pc = s.pc)

/-- The frame of HALT and PRINT-REGISTER: every register, every byte of memory, the latches and the parameters are
unchanged; HALT leaves the output and the fault status; PRINT-REGISTER leaves the halted flag and, where its operand
names a register, the fault status, and where it does not, the output and `pc`. -/
def Obligations.NoRegisterWriteFrame : Prop :=
  ∀ (a : Byte) (i : Instr) (s t : State), (i = .halt ∨ i = .printRegister a) → exec i s = .next t →
    (∀ r : RegIndex, t.readReg r = s.readReg r) ∧
    (∀ c : CellAddr, t.mem.read c = s.mem.read c) ∧
    t.ir = s.ir ∧ t.operandA = s.operandA ∧ t.operandB = s.operandB ∧ t.params = s.params ∧
    (i = .halt → t.out = s.out) ∧
    (i = .printRegister a → t.halted = s.halted) ∧
    (i.wellFormed = true → t.fault = s.fault ∧ t.faultInfo = s.faultInfo) ∧
    (i.wellFormed = false → t.out = s.out ∧ t.pc = s.pc)

/-- The frame of an invalid instruction: no register, byte of memory, latch, parameter or the halted flag changes;
under CONTINUE the fault status does not either, under FATAL neither the output nor `pc` does. -/
def Obligations.InvalidInstructionFrame : Prop :=
  ∀ s t : State, execInvalid s = .next t →
    (∀ r : RegIndex, t.readReg r = s.readReg r) ∧
    (∀ c : CellAddr, t.mem.read c = s.mem.read c) ∧
    t.halted = s.halted ∧ t.ir = s.ir ∧ t.operandA = s.operandA ∧ t.operandB = s.operandB ∧ t.params = s.params ∧
    (s.params.invalidPolicy = .continueRun → t.fault = s.fault ∧ t.faultInfo = s.faultInfo) ∧
    (s.params.invalidPolicy = .fatal → t.out = s.out ∧ t.pc = s.pc)

/-! ### Faults -/

/-- R76: a step that raises changes the fault status and nothing else but the latches, which keep the bytes fetched
for it, or their old values after OUT_OF_BOUNDS. -/
def Obligations.FaultsArePrecise : Prop :=
  ∀ s t : State, step s = .next t → t.fault ≠ .none →
    t.x = s.x ∧ t.out = s.out ∧ t.halted = s.halted ∧ t.pc = s.pc ∧ t.mem = s.mem ∧
    (∀ c : CellAddr, t.mem.read c = s.mem.read c) ∧ t.params = s.params ∧
    (t.fault = .outOfBounds → t.ir = s.ir ∧ t.operandA = s.operandA ∧ t.operandB = s.operandB) ∧
    (t.fault ≠ .outOfBounds → t.ir = s.byteAt 0 ∧ t.operandA = s.byteAt 1 ∧ t.operandB = s.byteAt 2)

/-- R79: which fault a step raises, and with which info: the first it meets of OUT_OF_BOUNDS, then INVALID_INSTRUCTION
(under FATAL) or BAD_REGISTER on operand_a, then BAD_REGISTER on operand_b, for the opcodes that have them; else none,
and the fault status is as before. -/
def Obligations.FaultPriority : Prop :=
  ∀ s t : State, step s = .next t →
    (t.fault, t.faultInfo) =
      (if s.params.addrPolicy = .fault ∧ 254 ≤ s.pc.toNat then (FaultCode.outOfBounds, outOfBoundsAddr s.pc)
      else if s.byteAt 0 ∉ [0x01#8, 0x47#8, 0x82#8, 0xA2#8] then
        (if s.params.invalidPolicy = .fatal then (FaultCode.invalidInstruction, (s.byteAt 0).setWidth 9)
        else (FaultCode.none, s.faultInfo))
      else if s.byteAt 0 ≠ 0x01#8 ∧ 8 ≤ (s.byteAt 1).toNat then (FaultCode.badRegister, (s.byteAt 1).setWidth 9)
      else if s.byteAt 0 = 0xA2#8 ∧ 8 ≤ (s.byteAt 2).toNat then (FaultCode.badRegister, (s.byteAt 2).setWidth 9)
      else (FaultCode.none, s.faultInfo))

/-- R77: once the fault status is not NONE, the engine takes no step, and no run and no host action but reset changes
it. -/
def Obligations.FaultIsTerminal : Prop :=
  ∀ s : State, s.fault ≠ .none →
    (∀ t, step s ≠ .next t) ∧ (∀ n, runFor n s = s) ∧
    (∀ (h : Session) (src : Source) (left : Vector Byte 256) (n : Nat),
      (Session.load src left (.started s) = .ok h ∨ Session.start (.started s) = .ok h ∨
        (Session.started s).runSteps n = h) → h = .started s)

/-- R69: an ALU given a tag outside its set raises UNSUPPORTED_ALU_OP, and no step of the engine raises it (the latter
is R69's inference, marked "derived: from rule R68 and 40_execute_cycle.md rule R51"). -/
def Obligations.UnsupportedAluOpUnreachable : Prop :=
  (∀ (tag w : Nat) (ra rb : RegIndex) (s : State), aluInstruction (.unsupported tag) ra rb w s =
    .next { s with fault := .unsupportedAluOp, faultInfo := 0#9 }) ∧
  (∀ s t : State, step s = .next t → t.fault ≠ .unsupportedAluOp)

/-! ### The ALU -/

/-- R67: the ALU on every pair of values, and the write back of its result into the first register operand. -/
def Obligations.AluFunction : Prop :=
  (∀ va vb : Byte, ∃ v, alu .add va vb = some v ∧ v.toNat = (va.toNat + vb.toNat) % 256) ∧
  (∀ va vb : Byte, ∃ v, alu .mul va vb = some v ∧ v.toNat = va.toNat * vb.toNat % 256) ∧
  (∀ (tag : Nat) (va vb : Byte), alu (.unsupported tag) va vb = none) ∧
  (∀ (op : AluTag) (ra rb : RegIndex) (w : Nat) (s : State) (v : Byte), alu op (s.readReg ra) (s.readReg rb) = some v →
    ∃ t, aluInstruction op ra rb w s = .next t ∧ t.readReg ra = v ∧ ∀ r, r ≠ ra → t.readReg r = s.readReg r)

/-- The product is the same when both operands are read as two's-complement signed bytes (R72's inference, marked
"derived: from rule R67"). -/
def Obligations.ProductSignIndependent : Prop :=
  ∀ va vb : Byte, alu .mul va vb = some (BitVec.ofInt 8 (va.toInt * vb.toInt))

/-! ### Output -/

/-- R65: a printed value is 1 to 3 decimal digits with no leading zeros that spell the unsigned value, then LF. -/
def Obligations.PrintedValueIsDecimal : Prop :=
  ∀ v : Byte, ∃ ds : List Nat, (Event.print v).render = ds.map Nat.digitChar ++ ['\n'] ∧
    1 ≤ ds.length ∧ ds.length ≤ 3 ∧ (∀ d ∈ ds, d < 10) ∧ (ds.head? = some 0 → ds = [0]) ∧
    ds.foldl (fun n d => 10 * n + d) 0 = v.toNat

/-- Events are only ever appended, at most one for each step of a run (R21, R22). -/
def Obligations.OutputOnlyGrows : Prop :=
  ∀ (n : Nat) (s : State), ∃ es : List Event, (runFor n s).out = s.out ++ es ∧ es.length ≤ n

/-- What the output port carries for a step (R22): valid exactly when an event was emitted, with its kind, its value
and, for an invalid instruction, its whole address. The premise is the invariant of StepKeepsInvariant: `out_pc` has 8
bits. -/
def Obligations.OutPortCarriesEvent : Prop :=
  ∀ s t : State, s.Inv → step s = .next t →
    ((outPort s t).valid = true ↔ t.out ≠ s.out) ∧
    (∀ v, t.out = s.out ++ [.print v] → (outPort s t).kind = 0#1 ∧ (outPort s t).value = v) ∧
    (∀ p b, t.out = s.out ++ [.invalid p b] →
      (outPort s t).kind = 1#1 ∧ (outPort s t).value = b ∧ (outPort s t).pc.toNat = p.toNat)

/-! ### Runs -/

/-- R101 (and R35): no instruction writes memory, so the memory of a run is the loaded one all along. -/
def Obligations.MemoryConstantInRun : Prop :=
  ∀ (n : Nat) (s : State), (runFor n s).mem = s.mem ∧ ∀ a : CellAddr, (runFor n s).mem.read a = s.mem.read a

/-- R60 (the spec's inference, marked "derived: from rule R57 and 20_memory.md rule R31"): under FAULT every completed
step increases `pc` by its width, 1 to 4, a step from 254 or above raises OUT_OF_BOUNDS, a run has at most 254
completed steps, it has always ended, halted or faulted, after 255, and `pc` stays in 0 to 257. -/
def Obligations.RunEndsUnderFault : Prop :=
  ∀ s : State, s.params.addrPolicy = .fault → s.pc.toNat ≤ 257 →
    (∀ t, step s = .next t → t.fault = .none → t.pc.toNat = s.pc.toNat + width (s.byteAt 0) ∧
      1 ≤ width (s.byteAt 0) ∧ width (s.byteAt 0) ≤ 4) ∧
    (∀ t, step s = .next t → 254 ≤ s.pc.toNat → t.fault = .outOfBounds) ∧
    (∀ n t, (runFor n s).isRunning = true → step (runFor n s) = .next t → t.fault = .none →
      s.pc.toNat + n + 1 ≤ 254) ∧
    (runFor 255 s).isRunning = false ∧ (endsWell s ∨ ∃ n, (runFor n s).condition = .faulted) ∧
    (∀ n, (runFor n s).pc.toNat ≤ 257)

/-- A run that does not end (an instance of R61, which the spec marks "derived: from rule R57"): under WRAP and
CONTINUE, over a memory of zeros, the engine runs for ever and emits an event at every step. -/
def Obligations.ZeroMemoryDivergesUnderWrap : Prop :=
  ∀ s : State, s.halted = false → s.fault = .none → s.params = { addrPolicy := .wrap, invalidPolicy := .continueRun } →
    (∀ a : CellAddr, s.mem.read a = 0#8) →
    ∀ n, (runFor n s).isRunning = true ∧ (runFor n s).out.length = s.out.length + n

/-- The `pc` of a run that never ends is eventually periodic, with period at most 256 steps (R61, which the spec marks
"derived: from rule R57"). -/
def Obligations.EndlessRunIsPeriodic : Prop :=
  ∀ s : State, (∀ n, (runFor n s).isRunning = true) →
    ∃ start period, 1 ≤ period ∧ period ≤ 256 ∧
      ∀ n, start ≤ n → (runFor (n + period) s).pc = (runFor n s).pc

/-- Running off the end of the program (R75, which the spec marks "derived: from rule R73, rule R74 and 20_memory.md
rule R31"): from the first uncovered address `u`, every cell from there on 0. Under FAULT and CONTINUE one `Invalid(p,
0)` for each `p` from `u` to 253 and then OUT_OF_BOUNDS(256), at 254, or at `u` where `u` is 254 or 255; under WRAP
and CONTINUE the run comes back to address 0; under FATAL it faults at `u` with INVALID_INSTRUCTION(0). One case is not
R75's: under FATAL and FAULT, where `u` is 254 or 255, it faults with OUT_OF_BOUNDS(256), by R31 and by the precedence
that R74 and R79 give it. -/
def Obligations.RunningOffTheEnd : Prop :=
  ∀ (s : State) (u : Nat), s.halted = false → s.fault = .none → s.pc.toNat = u → u ≤ 255 →
    (∀ a : CellAddr, u ≤ a.toNat → s.mem.read a = 0#8) →
    (s.params = { addrPolicy := .fault, invalidPolicy := .continueRun } → ∀ n, 255 - u ≤ n → 1 ≤ n →
      (runFor n s).out = s.out ++ (List.range' u (254 - u)).map (fun p => Event.invalid (BitVec.ofNat 9 p) 0#8) ∧
      (runFor n s).fault = .outOfBounds ∧ (runFor n s).faultInfo = 256#9 ∧
      (runFor n s).pc.toNat = max 254 u ∧ (runFor n s).x = s.x ∧ (runFor n s).halted = false) ∧
    (s.params = { addrPolicy := .wrap, invalidPolicy := .continueRun } →
      (runFor (256 - u) s).isRunning = true ∧ (runFor (256 - u) s).pc = 0#9 ∧
      (runFor (256 - u) s).out =
        s.out ++ (List.range' u (256 - u)).map (fun p => Event.invalid (BitVec.ofNat 9 p) 0#8)) ∧
    (s.params.invalidPolicy = .fatal → ∀ n, 1 ≤ n →
      ((runFor n s).fault, (runFor n s).faultInfo) =
        (if s.params.addrPolicy = .fault ∧ 254 ≤ u then (FaultCode.outOfBounds, 256#9)
        else (FaultCode.invalidInstruction, 0#9)) ∧
      (runFor n s).pc = s.pc ∧ (runFor n s).out = s.out ∧ (runFor n s).x = s.x ∧ (runFor n s).halted = false)

/-! ### Invariants -/

/-- Every step keeps the invariant: memory canonical, `pc` in its range, halted and faulted apart, the fault status
and every event of the output legal. -/
def Obligations.StepKeepsInvariant : Prop :=
  ∀ s t : State, s.Inv → step s = .next t → t.Inv

/-- The invariant holds at reset, under every choice of the parameters (R90), after every load of an image (R94), and
after a failed load (R89, R95). That a failed load changes nothing but memory, and leaves in it any 256 bytes at all, is
the model's (log entry 8). -/
def Obligations.ResetAndLoadMeetInvariant : Prop :=
  State.reset.Inv ∧
  (∀ (p : Params) (img : List Byte), (State.resetWith p).Inv ∧ ((State.resetWith p).loadImage img).Inv) ∧
  (∀ (h h' : Session) (src : Source) (left : Vector Byte 256),
    Session.load src left h.reset = .ok h' → h'.state.Inv)

/-- No step changes the parameters, which R5 fixes for one machine (log entry 1). -/
def Obligations.ParametersFixed : Prop :=
  ∀ (n : Nat) (s : State), (runFor n s).params = s.params

/-- A table word placed by withFetchWord is what the next step runs, whatever the state it is placed in (log entry
10). -/
def Obligations.FetchWordRuns : Prop :=
  ∀ (s : State) (nbits w : Nat) (i : Instr), s.mem.wf = true → decodeTableWord nbits w = some i →
    step (s.withFetchWord nbits w) = exec i (s.withFetchWord nbits w).fetched

/-! ### A failed load -/

/-- LoadError is the host's failure and no fault of the engine: after it the fault status is NONE and the run is never
started (R89, R95). Whatever source is given after a reset, nothing of the engine but memory differs from the reset
state: of an image loaded this is R94, of a failed load it is the model's (log entry 8). -/
def Obligations.LoadErrorIsNoFault : Prop :=
  (∀ (h h' : Session) (src : Source) (left : Vector Byte 256), Session.load src left h.reset = .ok h' →
    h'.state.fault = .none ∧ h'.state = { State.resetWith h.params with mem := h'.state.mem }) ∧
  (∀ (h : Session) (src : Source) (left : Vector Byte 256) (e : LoadError), assemble src = .error e →
    ∃ t, Session.load src left h.reset = .ok (.loadFailed t e) ∧ t.fault = .none ∧
      (∀ h', Session.start (.loadFailed t e) ≠ .ok h') ∧
      ∀ n, (Session.loadFailed t e).runSteps n = .loadFailed t e)
end

