-- ==== Sys2Proof/Laws/Decode.lean ====
section
/-! SUPPORT. The decoder's and the encoder's small lemmas. -/

namespace Sys2Proof

@[simp] theorem width_opHalt : width opHalt = 1 := by decide
@[simp] theorem width_opPrintRegister : width opPrintRegister = 2 := by decide
@[simp] theorem width_opSetImmediate : width opSetImmediate = 3 := by decide
@[simp] theorem width_opMultiply : width opMultiply = 3 := by decide

theorem width_pos (ir : Byte) : 1 ≤ width ir := Nat.succ_le_succ (Nat.zero_le _)

theorem width_le (ir : Byte) : width ir ≤ 4 := by
  have : operandCount ir < 2 ^ 2 := (ir.extractLsb' 6 2).isLt
  simp only [width]
  omega

theorem isOpcode_iff (ir : Byte) :
    isOpcode ir = true ↔ ir = opHalt ∨ ir = opPrintRegister ∨ ir = opSetImmediate ∨ ir = opMultiply := by
  simp [isOpcode, or_assoc]

@[simp] theorem decode_opHalt (a b : Byte) : decode opHalt a b = .ok .halt := rfl
@[simp] theorem decode_opPrintRegister (a b : Byte) : decode opPrintRegister a b = .ok (.printRegister a) := rfl
@[simp] theorem decode_opSetImmediate (a b : Byte) : decode opSetImmediate a b = .ok (.setImmediate a b) := rfl
@[simp] theorem decode_opMultiply (a b : Byte) : decode opMultiply a b = .ok (.multiply a b) := rfl

/-- Everything the decoder can answer. -/
theorem decode_cases (ir a b : Byte) :
    (ir = opHalt ∧ decode ir a b = .ok .halt) ∨
    (ir = opPrintRegister ∧ decode ir a b = .ok (.printRegister a)) ∨
    (ir = opSetImmediate ∧ decode ir a b = .ok (.setImmediate a b)) ∨
    (ir = opMultiply ∧ decode ir a b = .ok (.multiply a b)) ∨
    (isOpcode ir = false ∧ decode ir a b = .error (.invalidOpcode ir)) := by
  by_cases h1 : ir = opHalt
  · exact .inl ⟨h1, by rw [h1]; rfl⟩
  by_cases h2 : ir = opPrintRegister
  · exact .inr (.inl ⟨h2, by rw [h2]; rfl⟩)
  by_cases h3 : ir = opSetImmediate
  · exact .inr (.inr (.inl ⟨h3, by rw [h3]; rfl⟩))
  by_cases h4 : ir = opMultiply
  · exact .inr (.inr (.inr (.inl ⟨h4, by rw [h4]; rfl⟩)))
  · refine .inr (.inr (.inr (.inr ⟨?_, by simp [decode, h1, h2, h3, h4]⟩)))
    rw [Bool.eq_false_iff, ne_eq, isOpcode_iff]
    simp [h1, h2, h3, h4]

/-- The opcode of a decoded instruction is the byte it was decoded from. -/
theorem opcode_of_decode {ir a b : Byte} {i : Instr} (h : decode ir a b = .ok i) : i.opcode = ir := by
  rcases decode_cases ir a b with ⟨e, hd⟩ | ⟨e, hd⟩ | ⟨e, hd⟩ | ⟨e, hd⟩ | ⟨_, hd⟩ <;>
    rw [hd] at h <;> cases h <;> exact e.symm

end Sys2Proof
end

