-- ==== Sys2Proof/Laws/Memory.lean ====
section
/-! SUPPORT. The laws of memory: read after write, and that every memory operation keeps the canonical form. -/

namespace Sys2Proof.Machine

/-! ### Cells -/

theorem canonicalFrom_cons {lo k : Nat} {v : Byte} {rest : List Host.Cell} :
    canonicalFrom lo ((k, v) :: rest) = true ↔
      lo ≤ k ∧ k < 256 ∧ v ≠ Memory.unlisted ∧ canonicalFrom (k + 1) rest = true := by
  simp [canonicalFrom, and_assoc]

theorem canonicalFrom_of_le {lo lo' : Nat} (h : lo' ≤ lo) :
    ∀ {cells : List Host.Cell}, canonicalFrom lo cells = true → canonicalFrom lo' cells = true
  | [], _ => rfl
  | (_, _) :: _, hc => by
    rw [canonicalFrom_cons] at hc ⊢
    exact ⟨le_trans h hc.1, hc.2⟩

/-- An address below the first possible entry is not listed. -/
theorem lookupCell_of_lt {lo a : Nat} (h : a < lo) :
    ∀ {cells : List Host.Cell}, canonicalFrom lo cells = true → lookupCell cells a = Memory.unlisted
  | [], _ => rfl
  | (k, v) :: rest, hc => by
    rw [canonicalFrom_cons] at hc
    have hk : k ≠ a := by omega
    simp only [lookupCell, hk, if_false]
    exact lookupCell_of_lt (by omega) hc.2.2.2

theorem lookupCell_storeCell {lo a b : Nat} {v : Byte} :
    ∀ {cells : List Host.Cell}, canonicalFrom lo cells = true →
      lookupCell (storeCell a v cells) b = if a = b then v else lookupCell cells b
  | [], _ => by
    by_cases hv : v = Memory.unlisted <;> by_cases hab : a = b <;> simp [storeCell, lookupCell, hv, hab]
  | (k, w) :: rest, hc => by
    rw [canonicalFrom_cons] at hc
    have hrest : ∀ c, c ≤ k → lookupCell rest c = Memory.unlisted := fun c hck =>
      lookupCell_of_lt (by omega) hc.2.2.2
    unfold storeCell
    by_cases hak : a < k
    · by_cases hab : a = b
      · subst hab
        have : k ≠ a := by omega
        by_cases hv : v = Memory.unlisted <;> simp [hak, hv, lookupCell, this, hrest a (by omega)]
      · by_cases hv : v = Memory.unlisted <;> simp [hak, hv, lookupCell, hab]
    · by_cases hek : a = k
      · subst hek
        by_cases hab : a = b
        · subst hab
          by_cases hv : v = Memory.unlisted <;> simp [hv, lookupCell, hrest a (by omega)]
        · by_cases hv : v = Memory.unlisted <;> simp [hv, lookupCell, hab]
      · simp only [hak, hek, if_false, lookupCell, lookupCell_storeCell hc.2.2.2]
        by_cases hkb : k = b
        · subst hkb
          simp [hek]
        · simp [hkb]

theorem canonicalFrom_storeCell {lo a : Nat} {v : Byte} (hlo : lo ≤ a) (ha : a < 256) :
    ∀ {cells : List Host.Cell}, canonicalFrom lo cells = true → canonicalFrom lo (storeCell a v cells) = true
  | [], _ => by
    by_cases hv : v = Memory.unlisted
    · simp [storeCell, hv, canonicalFrom]
    · simp [storeCell, hv, canonicalFrom, hlo, ha]
  | (k, w) :: rest, hc => by
    have hc' := canonicalFrom_cons.mp hc
    unfold storeCell
    by_cases hak : a < k
    · by_cases hv : v = Memory.unlisted
      · simpa [hak, hv] using hc
      · simp only [hak, hv, if_true, if_false, canonicalFrom_cons]
        exact ⟨hlo, ha, hv, by omega, hc'.2⟩
    · by_cases hek : a = k
      · subst hek
        by_cases hv : v = Memory.unlisted
        · simpa [hv] using canonicalFrom_of_le (by omega) hc'.2.2.2
        · simp only [lt_irrefl, hv, if_true, if_false, canonicalFrom_cons]
          exact ⟨hlo, ha, hv, hc'.2.2.2⟩
      · simp only [hak, hek, if_false, canonicalFrom_cons]
        exact ⟨hc'.1, hc'.2.1, hc'.2.2.1, canonicalFrom_storeCell (by omega) ha hc'.2.2.2⟩

/-- Canonical cells are known by what they read as. -/
theorem canonicalFrom_ext {lo : Nat} :
    ∀ {cs ds : List Host.Cell}, canonicalFrom lo cs = true → canonicalFrom lo ds = true →
      (∀ a, lookupCell cs a = lookupCell ds a) → cs = ds
  | [], [], _, _, _ => rfl
  | [], (k, v) :: ds, _, hd, h => by
    have hv := (canonicalFrom_cons.mp hd).2.2.1
    have := h k
    simp [lookupCell] at this
    exact absurd this.symm hv
  | (k, v) :: cs, [], hc, _, h => by
    have hv := (canonicalFrom_cons.mp hc).2.2.1
    have := h k
    simp [lookupCell] at this
    exact absurd this hv
  | (k, v) :: cs, (l, w) :: ds, hc, hd, h => by
    have hc' := canonicalFrom_cons.mp hc
    have hd' := canonicalFrom_cons.mp hd
    have hkl : k = l := by
      rcases lt_trichotomy k l with hlt | heq | hgt
      · have hk := h k
        have hne : l ≠ k := by omega
        simp only [lookupCell, hne, if_true, if_false] at hk
        rw [lookupCell_of_lt (by omega) hd'.2.2.2] at hk
        exact absurd hk hc'.2.2.1
      · exact heq
      · have hl := h l
        have hne : k ≠ l := by omega
        simp only [lookupCell, hne, if_true, if_false] at hl
        rw [lookupCell_of_lt (by omega) hc'.2.2.2] at hl
        exact absurd hl.symm hd'.2.2.1
    subst hkl
    have hvw : v = w := by simpa [lookupCell] using h k
    subst hvw
    have htl : cs = ds := by
      refine canonicalFrom_ext hc'.2.2.2 hd'.2.2.2 fun a => ?_
      by_cases hka : k = a
      · subst hka
        rw [lookupCell_of_lt (by omega) hc'.2.2.2, lookupCell_of_lt (by omega) hd'.2.2.2]
      · simpa [lookupCell, hka] using h a
    rw [htl]

/-! ### Memory -/

@[simp] theorem Memory.empty_wf : Memory.empty.wf = true := rfl

@[simp] theorem Memory.read_empty (a : CellAddr) : Memory.empty.read a = 0#8 := rfl

/-- The memory of the reset state is in the canonical form. -/
@[simp] theorem State.resetWith_mem_wf (p : Params) : (State.resetWith p).mem.wf = true := rfl

@[simp] theorem State.reset_mem_wf : State.reset.mem.wf = true := rfl

/-- A read after a write: the value written at the same address, what was there elsewhere. -/
theorem Memory.read_write {m : Memory} (h : m.wf = true) (a b : CellAddr) (v : Byte) :
    (m.write a v).read b = if a = b then v else m.read b := by
  simp only [Memory.read, Memory.write, lookupCell_storeCell h, BitVec.toNat_inj]

/-- A write keeps the canonical form. -/
theorem Memory.write_wf {m : Memory} (h : m.wf = true) (a : CellAddr) (v : Byte) : (m.write a v).wf = true :=
  canonicalFrom_storeCell (Nat.zero_le _) a.isLt h

/-- Two memories in the canonical form that read alike are the same data. -/
theorem Memory.ext_read {m n : Memory} (hm : m.wf = true) (hn : n.wf = true) (h : ∀ a, m.read a = n.read a) :
    m = n := by
  cases m with | mk cs => cases n with | mk ds =>
  congr 1
  refine canonicalFrom_ext hm hn fun a => ?_
  by_cases ha : a < 256
  · simpa [Memory.read, Nat.mod_eq_of_lt ha] using h (BitVec.ofNat 8 a)
  · have out : ∀ {lo : Nat} {cells : List Host.Cell}, canonicalFrom lo cells = true →
        lookupCell cells a = Memory.unlisted := by
      intro lo cells
      induction cells generalizing lo with
      | nil => intro _; rfl
      | cons c rest ih =>
        obtain ⟨k, v⟩ := c
        intro hc
        have hc' := canonicalFrom_cons.mp hc
        have hk : k ≠ a := by omega
        simp only [lookupCell, hk, if_false]
        exact ih hc'.2.2.2
    rw [out hm, out hn]

/-- The loader keeps the canonical form. -/
theorem Memory.writeFrom_wf {m : Memory} (h : m.wf = true) (a : Nat) (bs : List Byte) :
    (m.writeFrom a bs).wf = true := by
  induction bs generalizing m a with
  | nil => exact h
  | cons b bs ih => exact ih (Memory.write_wf h _ _) _

/-- A read after bytes are written from address `k` on: the byte that fell there, or what was there before. -/
theorem Memory.read_writeFrom {m : Memory} (h : m.wf = true) {k : Nat} {bs : List Byte} (hk : k + bs.length ≤ 256)
    (a : CellAddr) :
    (m.writeFrom k bs).read a =
      if k ≤ a.toNat ∧ a.toNat < k + bs.length then bs.getD (a.toNat - k) 0#8 else m.read a := by
  induction bs generalizing m k with
  | nil =>
    rw [if_neg (by simp only [List.length_nil]; omega)]
    rfl
  | cons b bs ih =>
    rw [List.length_cons] at hk
    have hka : BitVec.ofNat 8 k = a ↔ k = a.toNat := by
      rw [← BitVec.toNat_inj, BitVec.toNat_ofNat, Nat.mod_eq_of_lt (by omega)]
    simp only [Memory.writeFrom]
    rw [ih (Memory.write_wf h _ _) (by omega), Memory.read_write h, List.length_cons]
    simp only [hka]
    by_cases hak : k = a.toNat
    · simp [hak]
    · by_cases hin : k + 1 ≤ a.toNat ∧ a.toNat < k + 1 + bs.length
      · rw [if_pos hin, if_pos (by omega), show a.toNat - k = a.toNat - (k + 1) + 1 by omega]
        rfl
      · rw [if_neg hin, if_neg hak, if_neg (by omega)]

/-- The memory of given cells is in the canonical form. -/
@[simp] theorem Memory.ofCells_wf (cells : Vector Byte 256) : (Memory.ofCells cells).wf = true :=
  Memory.writeFrom_wf Memory.empty_wf 0 _

/-- It reads as the given cells. -/
theorem Memory.read_ofCells (cells : Vector Byte 256) (a : CellAddr) :
    (Memory.ofCells cells).read a = cells[a.toNat]'a.isLt := by
  have ha := a.isLt
  have hl : cells.toList.length = 256 := cells.length_toList
  rw [Memory.ofCells, Memory.read_writeFrom Memory.empty_wf (by omega), if_pos (by omega), Nat.sub_zero,
    List.getD_eq_getElem _ _ (by omega)]
  simp

end Sys2Proof.Machine
end

