-- ==== Sys2Proof/Laws/State.lean ====
section
/-! SUPPORT. One lemma per field of State per update of it. -/

namespace Sys2Proof.Machine

/-! `State.writeReg`: SET-IMMEDIATE's and MULTIPLY's register write. -/

@[simp] theorem State.writeReg_mem (s : State) (r : RegIndex) (v : Byte) : (s.writeReg r v).mem = s.mem := rfl
@[simp] theorem State.writeReg_x (s : State) (r : RegIndex) (v : Byte) : (s.writeReg r v).x = s.x.set r.val v := rfl
@[simp] theorem State.writeReg_pc (s : State) (r : RegIndex) (v : Byte) : (s.writeReg r v).pc = s.pc := rfl
@[simp] theorem State.writeReg_halted (s : State) (r : RegIndex) (v : Byte) : (s.writeReg r v).halted = s.halted := rfl
@[simp] theorem State.writeReg_fault (s : State) (r : RegIndex) (v : Byte) : (s.writeReg r v).fault = s.fault := rfl
@[simp] theorem State.writeReg_faultInfo (s : State) (r : RegIndex) (v : Byte) : (s.writeReg r v).faultInfo = s.faultInfo := rfl
@[simp] theorem State.writeReg_ir (s : State) (r : RegIndex) (v : Byte) : (s.writeReg r v).ir = s.ir := rfl
@[simp] theorem State.writeReg_operandA (s : State) (r : RegIndex) (v : Byte) : (s.writeReg r v).operandA = s.operandA := rfl
@[simp] theorem State.writeReg_operandB (s : State) (r : RegIndex) (v : Byte) : (s.writeReg r v).operandB = s.operandB := rfl
@[simp] theorem State.writeReg_out (s : State) (r : RegIndex) (v : Byte) : (s.writeReg r v).out = s.out := rfl
@[simp] theorem State.writeReg_params (s : State) (r : RegIndex) (v : Byte) : (s.writeReg r v).params = s.params := rfl

/-! `State.emit`: an output event. -/

@[simp] theorem State.emit_mem (s : State) (e : Event) : (s.emit e).mem = s.mem := rfl
@[simp] theorem State.emit_x (s : State) (e : Event) : (s.emit e).x = s.x := rfl
@[simp] theorem State.emit_pc (s : State) (e : Event) : (s.emit e).pc = s.pc := rfl
@[simp] theorem State.emit_halted (s : State) (e : Event) : (s.emit e).halted = s.halted := rfl
@[simp] theorem State.emit_fault (s : State) (e : Event) : (s.emit e).fault = s.fault := rfl
@[simp] theorem State.emit_faultInfo (s : State) (e : Event) : (s.emit e).faultInfo = s.faultInfo := rfl
@[simp] theorem State.emit_ir (s : State) (e : Event) : (s.emit e).ir = s.ir := rfl
@[simp] theorem State.emit_operandA (s : State) (e : Event) : (s.emit e).operandA = s.operandA := rfl
@[simp] theorem State.emit_operandB (s : State) (e : Event) : (s.emit e).operandB = s.operandB := rfl
@[simp] theorem State.emit_out (s : State) (e : Event) : (s.emit e).out = s.out ++ [e] := rfl
@[simp] theorem State.emit_params (s : State) (e : Event) : (s.emit e).params = s.params := rfl

/-! `State.advance`: the advance of R57. -/

@[simp] theorem State.advance_mem (s : State) (w : Nat) : (s.advance w).mem = s.mem := rfl
@[simp] theorem State.advance_x (s : State) (w : Nat) : (s.advance w).x = s.x := rfl
@[simp] theorem State.advance_pc (s : State) (w : Nat) : (s.advance w).pc = nextPc s.params.addrPolicy s.pc w := rfl
@[simp] theorem State.advance_halted (s : State) (w : Nat) : (s.advance w).halted = s.halted := rfl
@[simp] theorem State.advance_fault (s : State) (w : Nat) : (s.advance w).fault = s.fault := rfl
@[simp] theorem State.advance_faultInfo (s : State) (w : Nat) : (s.advance w).faultInfo = s.faultInfo := rfl
@[simp] theorem State.advance_ir (s : State) (w : Nat) : (s.advance w).ir = s.ir := rfl
@[simp] theorem State.advance_operandA (s : State) (w : Nat) : (s.advance w).operandA = s.operandA := rfl
@[simp] theorem State.advance_operandB (s : State) (w : Nat) : (s.advance w).operandB = s.operandB := rfl
@[simp] theorem State.advance_out (s : State) (w : Nat) : (s.advance w).out = s.out := rfl
@[simp] theorem State.advance_params (s : State) (w : Nat) : (s.advance w).params = s.params := rfl

/-! `State.recordFault`: the two writes of R76. -/

@[simp] theorem State.recordFault_mem (s : State) (c : FaultCode) (info : PcWord) : (s.recordFault c info).mem = s.mem := rfl
@[simp] theorem State.recordFault_x (s : State) (c : FaultCode) (info : PcWord) : (s.recordFault c info).x = s.x := rfl
@[simp] theorem State.recordFault_pc (s : State) (c : FaultCode) (info : PcWord) : (s.recordFault c info).pc = s.pc := rfl
@[simp] theorem State.recordFault_halted (s : State) (c : FaultCode) (info : PcWord) : (s.recordFault c info).halted = s.halted := rfl
@[simp] theorem State.recordFault_fault (s : State) (c : FaultCode) (info : PcWord) : (s.recordFault c info).fault = c := rfl
@[simp] theorem State.recordFault_faultInfo (s : State) (c : FaultCode) (info : PcWord) : (s.recordFault c info).faultInfo = info := rfl
@[simp] theorem State.recordFault_ir (s : State) (c : FaultCode) (info : PcWord) : (s.recordFault c info).ir = s.ir := rfl
@[simp] theorem State.recordFault_operandA (s : State) (c : FaultCode) (info : PcWord) : (s.recordFault c info).operandA = s.operandA := rfl
@[simp] theorem State.recordFault_operandB (s : State) (c : FaultCode) (info : PcWord) : (s.recordFault c info).operandB = s.operandB := rfl
@[simp] theorem State.recordFault_out (s : State) (c : FaultCode) (info : PcWord) : (s.recordFault c info).out = s.out := rfl
@[simp] theorem State.recordFault_params (s : State) (c : FaultCode) (info : PcWord) : (s.recordFault c info).params = s.params := rfl

/-! `State.setHalted`: HALT's write. -/

@[simp] theorem State.setHalted_mem (s : State) : (s.setHalted).mem = s.mem := rfl
@[simp] theorem State.setHalted_x (s : State) : (s.setHalted).x = s.x := rfl
@[simp] theorem State.setHalted_pc (s : State) : (s.setHalted).pc = s.pc := rfl
@[simp] theorem State.setHalted_halted (s : State) : (s.setHalted).halted = true := rfl
@[simp] theorem State.setHalted_fault (s : State) : (s.setHalted).fault = s.fault := rfl
@[simp] theorem State.setHalted_faultInfo (s : State) : (s.setHalted).faultInfo = s.faultInfo := rfl
@[simp] theorem State.setHalted_ir (s : State) : (s.setHalted).ir = s.ir := rfl
@[simp] theorem State.setHalted_operandA (s : State) : (s.setHalted).operandA = s.operandA := rfl
@[simp] theorem State.setHalted_operandB (s : State) : (s.setHalted).operandB = s.operandB := rfl
@[simp] theorem State.setHalted_out (s : State) : (s.setHalted).out = s.out := rfl
@[simp] theorem State.setHalted_params (s : State) : (s.setHalted).params = s.params := rfl

/-! `State.latch`: the fetch's writes (R20). -/

@[simp] theorem State.latch_mem (s : State) (a b c : CellAddr) : (s.latch a b c).mem = s.mem := rfl
@[simp] theorem State.latch_x (s : State) (a b c : CellAddr) : (s.latch a b c).x = s.x := rfl
@[simp] theorem State.latch_pc (s : State) (a b c : CellAddr) : (s.latch a b c).pc = s.pc := rfl
@[simp] theorem State.latch_halted (s : State) (a b c : CellAddr) : (s.latch a b c).halted = s.halted := rfl
@[simp] theorem State.latch_fault (s : State) (a b c : CellAddr) : (s.latch a b c).fault = s.fault := rfl
@[simp] theorem State.latch_faultInfo (s : State) (a b c : CellAddr) : (s.latch a b c).faultInfo = s.faultInfo := rfl
@[simp] theorem State.latch_ir (s : State) (a b c : CellAddr) : (s.latch a b c).ir = s.mem.read a := rfl
@[simp] theorem State.latch_operandA (s : State) (a b c : CellAddr) : (s.latch a b c).operandA = s.mem.read b := rfl
@[simp] theorem State.latch_operandB (s : State) (a b c : CellAddr) : (s.latch a b c).operandB = s.mem.read c := rfl
@[simp] theorem State.latch_out (s : State) (a b c : CellAddr) : (s.latch a b c).out = s.out := rfl
@[simp] theorem State.latch_params (s : State) (a b c : CellAddr) : (s.latch a b c).params = s.params := rfl

/-! `State.loadImage`: the loader's writes (R94). -/

@[simp] theorem State.loadImage_mem (s : State) (img : List Byte) : (s.loadImage img).mem = s.mem.writeFrom Config.loadBase img := rfl
@[simp] theorem State.loadImage_x (s : State) (img : List Byte) : (s.loadImage img).x = s.x := rfl
@[simp] theorem State.loadImage_pc (s : State) (img : List Byte) : (s.loadImage img).pc = s.pc := rfl
@[simp] theorem State.loadImage_halted (s : State) (img : List Byte) : (s.loadImage img).halted = s.halted := rfl
@[simp] theorem State.loadImage_fault (s : State) (img : List Byte) : (s.loadImage img).fault = s.fault := rfl
@[simp] theorem State.loadImage_faultInfo (s : State) (img : List Byte) : (s.loadImage img).faultInfo = s.faultInfo := rfl
@[simp] theorem State.loadImage_ir (s : State) (img : List Byte) : (s.loadImage img).ir = s.ir := rfl
@[simp] theorem State.loadImage_operandA (s : State) (img : List Byte) : (s.loadImage img).operandA = s.operandA := rfl
@[simp] theorem State.loadImage_operandB (s : State) (img : List Byte) : (s.loadImage img).operandB = s.operandB := rfl
@[simp] theorem State.loadImage_out (s : State) (img : List Byte) : (s.loadImage img).out = s.out := rfl
@[simp] theorem State.loadImage_params (s : State) (img : List Byte) : (s.loadImage img).params = s.params := rfl

/-! `State.failLoad`: a failed load (R89, R95). -/

@[simp] theorem State.failLoad_mem (s : State) (left : Vector Byte 256) : (s.failLoad left).mem = Memory.ofCells left := rfl
@[simp] theorem State.failLoad_x (s : State) (left : Vector Byte 256) : (s.failLoad left).x = s.x := rfl
@[simp] theorem State.failLoad_pc (s : State) (left : Vector Byte 256) : (s.failLoad left).pc = s.pc := rfl
@[simp] theorem State.failLoad_halted (s : State) (left : Vector Byte 256) : (s.failLoad left).halted = s.halted := rfl
@[simp] theorem State.failLoad_fault (s : State) (left : Vector Byte 256) : (s.failLoad left).fault = s.fault := rfl
@[simp] theorem State.failLoad_faultInfo (s : State) (left : Vector Byte 256) : (s.failLoad left).faultInfo = s.faultInfo := rfl
@[simp] theorem State.failLoad_ir (s : State) (left : Vector Byte 256) : (s.failLoad left).ir = s.ir := rfl
@[simp] theorem State.failLoad_operandA (s : State) (left : Vector Byte 256) : (s.failLoad left).operandA = s.operandA := rfl
@[simp] theorem State.failLoad_operandB (s : State) (left : Vector Byte 256) : (s.failLoad left).operandB = s.operandB := rfl
@[simp] theorem State.failLoad_out (s : State) (left : Vector Byte 256) : (s.failLoad left).out = s.out := rfl
@[simp] theorem State.failLoad_params (s : State) (left : Vector Byte 256) : (s.failLoad left).params = s.params := rfl

/-! `State.placeBytes`: the three bytes and the running engine that withFetchWord sets up. -/

theorem State.placeBytes_mem (s : State) (a b c : Byte) : (s.placeBytes a b c).mem =
    ((s.mem.write (BitVec.ofNat 8 (((placePc s).toNat + 0) % 256)) a).write (BitVec.ofNat 8 (((placePc s).toNat + 1) % 256)) b).write
      (BitVec.ofNat 8 (((placePc s).toNat + 2) % 256)) c := rfl
@[simp] theorem State.placeBytes_x (s : State) (a b c : Byte) : (s.placeBytes a b c).x =
    s.x := rfl
@[simp] theorem State.placeBytes_pc (s : State) (a b c : Byte) : (s.placeBytes a b c).pc =
    placePc s := rfl
@[simp] theorem State.placeBytes_halted (s : State) (a b c : Byte) : (s.placeBytes a b c).halted =
    false := rfl
@[simp] theorem State.placeBytes_fault (s : State) (a b c : Byte) : (s.placeBytes a b c).fault =
    .none := rfl
@[simp] theorem State.placeBytes_faultInfo (s : State) (a b c : Byte) : (s.placeBytes a b c).faultInfo =
    if s.fault = .none then s.faultInfo else 0#9 := rfl
@[simp] theorem State.placeBytes_ir (s : State) (a b c : Byte) : (s.placeBytes a b c).ir =
    s.ir := rfl
@[simp] theorem State.placeBytes_operandA (s : State) (a b c : Byte) : (s.placeBytes a b c).operandA =
    s.operandA := rfl
@[simp] theorem State.placeBytes_operandB (s : State) (a b c : Byte) : (s.placeBytes a b c).operandB =
    s.operandB := rfl
@[simp] theorem State.placeBytes_out (s : State) (a b c : Byte) : (s.placeBytes a b c).out =
    s.out := rfl
@[simp] theorem State.placeBytes_params (s : State) (a b c : Byte) : (s.placeBytes a b c).params =
    s.params := rfl

end Sys2Proof.Machine
end

