-- ==== Sys2Proof/Laws/Ops.lean ====
section
/-! SUPPORT. For each shared operation, what it can do. -/

namespace Sys2Proof.Machine

/-! ### Registers -/

/-- A register read after a register write. -/
theorem State.readReg_writeReg (s : State) (r q : RegIndex) (v : Byte) :
    (s.writeReg r v).readReg q = if r = q then v else s.readReg q := by
  simp [State.readReg, State.writeReg, Vector.getElem_set, Fin.ext_iff]

@[simp] theorem State.readReg_emit (s : State) (e : Event) (q : RegIndex) : (s.emit e).readReg q = s.readReg q := rfl
@[simp] theorem State.readReg_advance (s : State) (w : Nat) (q : RegIndex) : (s.advance w).readReg q = s.readReg q := rfl
@[simp] theorem State.readReg_recordFault (s : State) (c : FaultCode) (i : PcWord) (q : RegIndex) :
    (s.recordFault c i).readReg q = s.readReg q := rfl
@[simp] theorem State.readReg_setHalted (s : State) (q : RegIndex) : s.setHalted.readReg q = s.readReg q := rfl
@[simp] theorem State.readReg_latch (s : State) (a b c : CellAddr) (q : RegIndex) :
    (s.latch a b c).readReg q = s.readReg q := rfl

/-! ### Operands -/

/-- A register operand names its register, or is 8 or more. -/
theorem registerOperand?_cases (b : Byte) :
    (∃ h : b.toNat < 8, registerOperand? b = some ⟨b.toNat, h⟩) ∨ (8 ≤ b.toNat ∧ registerOperand? b = none) := by
  by_cases h : b.toNat < 8
  · exact .inl ⟨h, by simp [registerOperand?, h]⟩
  · exact .inr ⟨by omega, by simp [registerOperand?, h]⟩

theorem withRegister_of_lt {b : Byte} (h : b.toNat < 8) (s : State) (k : RegIndex → StepOutcome) :
    withRegister b s k = k ⟨b.toNat, h⟩ := by
  simp [withRegister, registerOperand?, h]

theorem withRegister_of_ge {b : Byte} (h : 8 ≤ b.toNat) (s : State) (k : RegIndex → StepOutcome) :
    withRegister b s k = raise .badRegister (b.setWidth 9) s := by
  simp [withRegister, registerOperand?, Nat.not_lt.mpr h]

/-! ### The advance -/

/-- Under FAULT the sum is kept whole wherever it fits the register. -/
theorem nextPc_fault {pc : PcWord} {w : Nat} (h : pc.toNat + w < 512) :
    (nextPc .fault pc w).toNat = pc.toNat + w := by
  simp [nextPc, Nat.mod_eq_of_lt h]

/-- Under WRAP the sum is taken mod 256. -/
theorem nextPc_wrap (pc : PcWord) (w : Nat) : (nextPc .wrap pc w).toNat = (pc.toNat + w) % 256 := by
  have h : (pc.toNat + w) % 256 < 256 := Nat.mod_lt _ (by decide)
  simp only [nextPc, BitVec.toNat_ofNat]
  omega

/-! ### Raising a fault -/

/-- `raise` answers the state with the fault recorded and nothing else. -/
theorem raise_next {c : FaultCode} {info : PcWord} {s t : State} :
    raise c info s = .next t ↔ t = s.recordFault c info := by
  simp [raise, eq_comm]

/-! ### The ALU -/

theorem alu_mul (va vb : Byte) : alu .mul va vb = some (va * vb) := by
  simp only [alu, Option.some.injEq]
  apply BitVec.eq_of_toNat_eq
  simp [BitVec.toNat_mul]

theorem alu_add (va vb : Byte) : alu .add va vb = some (va + vb) := by
  simp only [alu, Option.some.injEq]
  apply BitVec.eq_of_toNat_eq
  simp [BitVec.toNat_add]

/-- What an ALU instruction answers on the multiply tag. -/
theorem aluInstruction_mul (ra rb : RegIndex) (w : Nat) (s : State) :
    aluInstruction .mul ra rb w s = .next ((s.writeReg ra (s.readReg ra * s.readReg rb)).advance w) := by
  simp [aluInstruction, alu_mul]

/-! ### The condition of the engine -/

theorem State.isRunning_iff (s : State) : s.isRunning = true ↔ s.fault = .none ∧ s.halted = false := by
  simp only [State.isRunning, State.condition]
  by_cases hf : s.fault = .none <;> cases hh : s.halted <;> simp [hf]

end Sys2Proof.Machine
end

