-- ==== Sys2Proof/Laws/PerInstr.lean ====
section
/-! SUPPORT. Statements made for every instruction, one lemma per constructor of Instr. -/

namespace Sys2Proof.Laws.EncodingWidth

/-- The number of bytes of an instruction's encoding is the width its opcode byte gives (R38, R39). -/
def Statement (i : Instr) : Prop := (encode i).length = width i.opcode

theorem halt : Statement .halt := by simp [Statement, encode, Instr.opcode]
theorem printRegister (a : Byte) : Statement (.printRegister a) := by simp [Statement, encode, Instr.opcode]
theorem setImmediate (a b : Byte) : Statement (.setImmediate a b) := by simp [Statement, encode, Instr.opcode]
theorem multiply (a b : Byte) : Statement (.multiply a b) := by simp [Statement, encode, Instr.opcode]

end Sys2Proof.Laws.EncodingWidth
end

