-- ==== Sys2Proof/Laws/Session.lean ====
section
/-! SUPPORT. What the host's load can do, said once. -/

namespace Sys2Proof.Machine

/-- A load that is not refused is made after a reset, and loads the image of the source or fails with its LoadError. -/
theorem Session.load_cases {src : Source} {left : Vector Byte 256} {h h' : Session} (hl : Session.load src left h = .ok h') :
    ∃ s, h = .ready s ∧
      ((∃ img, assemble src = .ok img ∧ h' = .loaded (s.loadImage img)) ∨
        ∃ e, assemble src = .error e ∧ h' = .loadFailed (s.failLoad left) e) := by
  cases h with
  | ready s =>
    refine ⟨s, rfl, ?_⟩
    simp only [Session.load] at hl
    split at hl
    · exact .inl ⟨_, ‹_›, by simpa using hl.symm⟩
    · exact .inr ⟨_, ‹_›, by simpa using hl.symm⟩
  | loadFailed _ _ => cases hl
  | loaded _ => cases hl
  | started _ => cases hl

end Sys2Proof.Machine
end

