-- ==== Sys2Proof/Laws/Step.lean ====
section
/-! SUPPORT. What a fetch and a step can do, said once. -/

namespace Sys2Proof.Machine

theorem ofNat_mod_256 (n : Nat) : BitVec.ofNat 8 (n % 256) = BitVec.ofNat 8 n := by
  apply BitVec.eq_of_toNat_eq
  simp

/-- `State.fetched` is the fetch's latching of the three bytes. -/
theorem State.fetched_eq_latch (s : State) :
    s.fetched = s.latch (BitVec.ofNat 8 (s.pc.toNat + 0)) (BitVec.ofNat 8 (s.pc.toNat + 1))
      (BitVec.ofNat 8 (s.pc.toNat + 2)) := rfl

@[simp] theorem State.fetched_mem (s : State) : s.fetched.mem = s.mem := rfl
@[simp] theorem State.fetched_x (s : State) : s.fetched.x = s.x := rfl
@[simp] theorem State.fetched_pc (s : State) : s.fetched.pc = s.pc := rfl
@[simp] theorem State.fetched_halted (s : State) : s.fetched.halted = s.halted := rfl
@[simp] theorem State.fetched_fault (s : State) : s.fetched.fault = s.fault := rfl
@[simp] theorem State.fetched_faultInfo (s : State) : s.fetched.faultInfo = s.faultInfo := rfl
@[simp] theorem State.fetched_ir (s : State) : s.fetched.ir = s.byteAt 0 := rfl
@[simp] theorem State.fetched_operandA (s : State) : s.fetched.operandA = s.byteAt 1 := rfl
@[simp] theorem State.fetched_operandB (s : State) : s.fetched.operandB = s.byteAt 2 := rfl
@[simp] theorem State.fetched_out (s : State) : s.fetched.out = s.out := rfl
@[simp] theorem State.fetched_params (s : State) : s.fetched.params = s.params := rfl
@[simp] theorem State.readReg_fetched (s : State) (q : RegIndex) : s.fetched.readReg q = s.readReg q := rfl

/-- The two answers of a fetch. -/
theorem fetch_cases (s : State) :
    (s.params.addrPolicy = .fault ∧ 254 ≤ s.pc.toNat ∧ fetch s = .error (BitVec.ofNat 9 (max 256 s.pc.toNat))) ∨
    ((s.params.addrPolicy = .fault → s.pc.toNat ≤ 253) ∧ fetch s = .ok s.fetched) := by
  have mods : ∀ n, BitVec.ofNat 8 (n % 256) = BitVec.ofNat 8 n := ofNat_mod_256
  cases hp : s.params.addrPolicy with
  | wrap => exact .inr ⟨by simp, by simp only [fetch, fetchAddresses, hp, mods]; rfl⟩
  | fault =>
    by_cases h0 : 256 ≤ s.pc.toNat
    · refine .inl ⟨rfl, by omega, ?_⟩
      simp [fetch, fetchAddresses, hp, h0]
    by_cases h1 : 256 ≤ s.pc.toNat + 1
    · refine .inl ⟨rfl, by omega, ?_⟩
      have : s.pc.toNat = 255 := by omega
      simp [fetch, fetchAddresses, hp, this]
    by_cases h2 : 256 ≤ s.pc.toNat + 2
    · refine .inl ⟨rfl, by omega, ?_⟩
      have : s.pc.toNat = 254 := by omega
      simp [fetch, fetchAddresses, hp, this]
    · refine .inr ⟨fun _ => by omega, ?_⟩
      have g0 : ¬ 256 ≤ s.pc.toNat := h0
      have g1 : ¬ 256 ≤ s.pc.toNat + 1 := h1
      have g2 : ¬ 256 ≤ s.pc.toNat + 2 := h2
      simp only [fetch, fetchAddresses, hp, g0, g1, g2, if_false, mods]
      rfl

/-- What the dispatch of a fetched step can answer (R51, R55): one of the four instructions, an invalid instruction, or
a fault raised by one of them. -/
inductive ArmCase (s t : State) : Prop where
  | halt (op : s.ir = opHalt) (eq : t = s.setHalted.advance 1)
  | print (op : s.ir = opPrintRegister) (ha : s.operandA.toNat < 8)
      (eq : t = (s.emit (.print (s.readReg ⟨s.operandA.toNat, ha⟩))).advance 2)
  | setImm (op : s.ir = opSetImmediate) (ha : s.operandA.toNat < 8)
      (eq : t = (s.writeReg ⟨s.operandA.toNat, ha⟩ s.operandB).advance 3)
  | mul (op : s.ir = opMultiply) (ha : s.operandA.toNat < 8) (hb : s.operandB.toNat < 8)
      (eq : t = (s.writeReg ⟨s.operandA.toNat, ha⟩
        (s.readReg ⟨s.operandA.toNat, ha⟩ * s.readReg ⟨s.operandB.toNat, hb⟩)).advance 3)
  | badA (op : s.ir = opPrintRegister ∨ s.ir = opSetImmediate ∨ s.ir = opMultiply) (ha : 8 ≤ s.operandA.toNat)
      (eq : t = s.recordFault .badRegister (s.operandA.setWidth 9))
  | badB (op : s.ir = opMultiply) (ha : s.operandA.toNat < 8) (hb : 8 ≤ s.operandB.toNat)
      (eq : t = s.recordFault .badRegister (s.operandB.setWidth 9))
  | skipped (op : isOpcode s.ir = false) (hp : s.params.invalidPolicy = .continueRun)
      (eq : t = (s.emit (.invalid s.pc s.ir)).advance (width s.ir))
  | fatal (op : isOpcode s.ir = false) (hp : s.params.invalidPolicy = .fatal)
      (eq : t = s.recordFault .invalidInstruction (s.ir.setWidth 9))

/-- The part of `step` after the fetch. -/
def dispatchFetched (s : State) : StepOutcome :=
  match decode s.ir s.operandA s.operandB with
  | .ok i => exec i s
  | .error _ => execInvalid s

theorem dispatchFetched_cases (s : State) : ∃ t, dispatchFetched s = .next t ∧ ArmCase s t := by
  rcases decode_cases s.ir s.operandA s.operandB with ⟨e, hd⟩ | ⟨e, hd⟩ | ⟨e, hd⟩ | ⟨e, hd⟩ | ⟨e, hd⟩
  · refine ⟨_, ?_, .halt e rfl⟩
    simp only [dispatchFetched, hd, exec, execHalt, width_opHalt]
  · by_cases ha : s.operandA.toNat < 8
    · refine ⟨_, ?_, .print e ha rfl⟩
      simp only [dispatchFetched, hd, exec, execPrintRegister, withRegister_of_lt ha, width_opPrintRegister]
    · refine ⟨_, ?_, .badA (.inl e) (Nat.not_lt.mp ha) rfl⟩
      simp only [dispatchFetched, hd, exec, execPrintRegister, withRegister_of_ge (Nat.not_lt.mp ha), raise]
  · by_cases ha : s.operandA.toNat < 8
    · refine ⟨_, ?_, .setImm e ha rfl⟩
      simp only [dispatchFetched, hd, exec, execSetImmediate, withRegister_of_lt ha, width_opSetImmediate,
        immediateOperand]
    · refine ⟨_, ?_, .badA (.inr (.inl e)) (Nat.not_lt.mp ha) rfl⟩
      simp only [dispatchFetched, hd, exec, execSetImmediate, withRegister_of_ge (Nat.not_lt.mp ha), raise]
  · by_cases ha : s.operandA.toNat < 8
    · by_cases hb : s.operandB.toNat < 8
      · refine ⟨_, ?_, .mul e ha hb rfl⟩
        simp only [dispatchFetched, hd, exec, execMultiply, withRegister_of_lt ha, withRegister_of_lt hb,
          aluInstruction_mul, width_opMultiply]
      · refine ⟨_, ?_, .badB e ha (Nat.not_lt.mp hb) rfl⟩
        simp only [dispatchFetched, hd, exec, execMultiply, withRegister_of_lt ha,
          withRegister_of_ge (Nat.not_lt.mp hb), raise]
    · refine ⟨_, ?_, .badA (.inr (.inr e)) (Nat.not_lt.mp ha) rfl⟩
      simp only [dispatchFetched, hd, exec, execMultiply, withRegister_of_ge (Nat.not_lt.mp ha), raise]
  · cases hp : s.params.invalidPolicy with
    | continueRun =>
      refine ⟨_, ?_, .skipped e hp rfl⟩
      simp only [dispatchFetched, hd, execInvalid, hp]
    | fatal =>
      refine ⟨_, ?_, .fatal e hp rfl⟩
      simp only [dispatchFetched, hd, execInvalid, hp, raise]

/-- A step of a running engine, after its fetch. -/
theorem step_of_running {s : State} (h : s.isRunning = true) :
    step s = match fetch s with
      | .error bad => raise .outOfBounds bad s
      | .ok s1 => dispatchFetched s1 := by
  have hc : s.condition = .running := by simpa [State.isRunning] using h
  simp only [step, hc]
  rfl

/-- A running engine has a next state, and it is one of these (R31, R51). -/
theorem step_next_of_running {s : State} (h : s.isRunning = true) :
    ∃ t, step s = .next t ∧
      ((s.params.addrPolicy = .fault ∧ 254 ≤ s.pc.toNat ∧
          t = s.recordFault .outOfBounds (BitVec.ofNat 9 (max 256 s.pc.toNat))) ∨
        ((s.params.addrPolicy = .fault → s.pc.toNat ≤ 253) ∧ ArmCase s.fetched t)) := by
  rw [step_of_running h]
  rcases fetch_cases s with ⟨hp, hpc, hf⟩ | ⟨hpc, hf⟩
  · exact ⟨_, by rw [hf]; rfl, .inl ⟨hp, hpc, rfl⟩⟩
  · obtain ⟨t, ht, harm⟩ := dispatchFetched_cases s.fetched
    exact ⟨t, by rw [hf]; exact ht, .inr ⟨hpc, harm⟩⟩

/-- An engine that is not running has no next state (R52). -/
theorem step_of_not_running {s t : State} (h : s.isRunning = false) : step s ≠ .next t := by
  have hc : s.condition ≠ .running := by simpa [State.isRunning] using h
  unfold step
  split <;> simp_all

/-- Everything a step can do: the one inversion lemma of `step`. -/
theorem step_cases {s t : State} (h : step s = .next t) :
    s.isRunning = true ∧
      ((s.params.addrPolicy = .fault ∧ 254 ≤ s.pc.toNat ∧
          t = s.recordFault .outOfBounds (BitVec.ofNat 9 (max 256 s.pc.toNat))) ∨
        ((s.params.addrPolicy = .fault → s.pc.toNat ≤ 253) ∧ ArmCase s.fetched t)) := by
  cases hr : s.isRunning with
  | false => exact absurd h (step_of_not_running hr)
  | true =>
    obtain ⟨t', ht', hcase⟩ := step_next_of_running hr
    rw [ht'] at h
    cases h
    exact ⟨rfl, hcase⟩

end Sys2Proof.Machine
end

