-- ==== Sys2Proof/Tests/Slice0.lean ====
section
/-! SUPPORT. The model's own tests, their results from the spec's encodings and test vectors (spec/95_test_vectors.md),
and a witness for the hypotheses of every statement. -/

namespace Sys2Proof.Tests

open Sys2Proof.Machine

/-! ### Helpers -/

/-- The outcome is a next state that meets a check. -/
def nextWhere (o : StepOutcome) (p : State → Bool) : Bool :=
  match o with
  | .next t => p t
  | .fault _ => false
  | .refused _ => false

theorem exists_of_nextWhere {o : StepOutcome} {p : State → Bool} (h : nextWhere o p = true) :
    ∃ t, o = .next t ∧ p t = true := by
  cases o with
  | next t => exact ⟨t, rfl, h⟩
  | fault _ => cases h
  | refused _ => cases h

/-- The parameters by name. -/
def faultContinue : Params := { addrPolicy := .fault, invalidPolicy := .continueRun }
def faultFatal : Params := { addrPolicy := .fault, invalidPolicy := .fatal }
def wrapContinue : Params := { addrPolicy := .wrap, invalidPolicy := .continueRun }
def wrapFatal : Params := { addrPolicy := .wrap, invalidPolicy := .fatal }

/-- The reset state with bytes stored at `pc` on. -/
def stateAt (p : Params) (pc : PcWord) (bytes : List Byte) : State :=
  { State.resetWith p with pc := pc, mem := Memory.empty.writeFrom pc.toNat bytes }

/-- The same with two registers set. -/
def stateWith (bytes : List Byte) (r0 r1 : Byte) : State :=
  ((stateAt faultContinue 0#9 bytes).writeReg 0 r0).writeReg 1 r1

/-! ### WellFormed: an ill-formed instruction for each check -/

theorem test_wellFormed_refuses_print_8 : (Instr.printRegister 8#8).wellFormed = false := by decide
theorem test_wellFormed_refuses_set_255 : (Instr.setImmediate 255#8 0#8).wellFormed = false := by decide
theorem test_wellFormed_refuses_multiply_a : (Instr.multiply 8#8 7#8).wellFormed = false := by decide
theorem test_wellFormed_refuses_multiply_b : (Instr.multiply 7#8 8#8).wellFormed = false := by decide
theorem test_wellFormed_accepts_7 : (Instr.multiply 7#8 7#8).wellFormed = true := by decide

/-! ### Decoding: words written out bit by bit from R43 -/

theorem test_decode_halt : decode 0b00000001#8 0xFF#8 0xFF#8 = .ok .halt := by decide
theorem test_decode_print : decode 0b01000111#8 0b00000010#8 0x99#8 = .ok (.printRegister 2#8) := by decide
theorem test_decode_set : decode 0b10000010#8 0b00000011#8 0b11111111#8 = .ok (.setImmediate 3#8 255#8) := by decide
theorem test_decode_multiply : decode 0b10100010#8 0b00000001#8 0b00000000#8 = .ok (.multiply 1#8 0#8) := by decide
/-- R71: ADD's byte of the LS-8 course specification is no instruction here. -/
theorem test_decode_A0 : decode 0xA0#8 0#8 1#8 = .error (.invalidOpcode 0xA0#8) := by decide
theorem test_decodeBytes_truncated : decodeBytes [0x82#8, 0#8] = .error .truncated := by decide
/-- Bit 0 is the lowest bit of the first byte, and the bits above nbits are 0. -/
theorem test_tableWord_set : decodeTableWord 24 0x2A0382 = some (.setImmediate 3#8 0x2A#8) := by decide
theorem test_tableWord_short : decodeTableWord 8 0x82 = some (.setImmediate 0#8 0#8) := by decide
theorem test_tableWord_invalid : decodeTableWord 8 0x00 = none := by decide

/-- R45: the invalid bytes of each width class number 63, 63, 62 and 64. -/
theorem test_invalid_counts :
    [1, 2, 3, 4].map (fun w => ((List.range 256).filter fun n =>
      !isOpcode (BitVec.ofNat 8 n) && width (BitVec.ofNat 8 n) == w).length) = [63, 63, 62, 64] := by decide +kernel

/-! ### Instructions -/

/-- V1: the operand bytes after a HALT are not checked; E1: pc is 1. -/
theorem test_halt_ignores_operands :
    nextWhere (step (stateAt faultContinue 0#9 [0x01#8, 0xFF#8, 0xFF#8]))
      (fun t => t.halted && t.pc == 1#9 && t.fault == .none && t.out == []) = true := by decide

/-- V11: HALT at 255 under WRAP leaves pc 0. -/
theorem test_halt_wraps :
    nextWhere (step (stateAt wrapContinue 255#9 [0x01#8])) (fun t => t.halted && t.pc == 0#9) = true := by decide

/-- S1. -/
theorem test_set_immediate :
    nextWhere (step (stateAt faultContinue 0#9 [0x82#8, 0x00#8, 0x2A#8]))
      (fun t => t.readReg 0 == 42#8 && t.pc == 3#9 && t.readReg 7 == 0xF4#8) = true := by decide

/-- S5. -/
theorem test_set_bad_register :
    nextWhere (step (stateAt faultContinue 0#9 [0x82#8, 0x08#8, 0x01#8]))
      (fun t => t.fault == .badRegister && t.faultInfo == 8#9 && t.pc == 0#9) = true := by decide

/-- O2: register 7 prints its reset value. -/
theorem test_print_reset_r7 :
    nextWhere (step (stateAt faultContinue 0#9 [0x47#8, 0x07#8]))
      (fun t => t.out == [.print 244#8] && t.pc == 2#9) = true := by decide

/-- I8: a valid PRINT-REGISTER with a bad index. -/
theorem test_print_bad_register :
    nextWhere (step (stateAt faultFatal 0#9 [0x47#8, 0x0C#8]))
      (fun t => t.out == [] && t.fault == .badRegister && t.faultInfo == 12#9) = true := by decide

/-- M2: 40000 mod 256, and the second operand is not written. -/
theorem test_multiply_wraps :
    nextWhere (step (stateWith [0xA2#8, 0x00#8, 0x01#8] 200#8 200#8))
      (fun t => t.readReg 0 == 64#8 && t.readReg 1 == 200#8 && t.pc == 3#9) = true := by decide

/-- M11: operand_a is checked first. -/
theorem test_multiply_checks_a_first :
    nextWhere (step (stateWith [0xA2#8, 0x0A#8, 0x0B#8] 5#8 6#8))
      (fun t => t.fault == .badRegister && t.faultInfo == 10#9 && t.readReg 0 == 5#8) = true := by decide

/-! ### Invalid instructions, the fetch and the condition -/

/-- V8. -/
theorem test_invalid_at_253 :
    nextWhere (step (stateAt faultContinue 253#9 [0xC0#8]))
      (fun t => t.out == [.invalid 253#9 0xC0#8] && t.pc == 257#9) = true := by decide

/-- I9 under FATAL. -/
theorem test_invalid_fatal :
    nextWhere (step (stateAt faultFatal 0#9 [0xFF#8, 0x08#8, 0x09#8]))
      (fun t => t.fault == .invalidInstruction && t.faultInfo == 0xFF#9 && t.out == [] && t.pc == 0#9) = true := by
  decide

/-- V3: a HALT at 254 under FAULT does not complete. -/
theorem test_halt_at_254 :
    nextWhere (step (stateAt faultContinue 254#9 [0x01#8]))
      (fun t => t.fault == .outOfBounds && t.faultInfo == 256#9 && t.pc == 254#9 && !t.halted) = true := by decide

/-- V6. -/
theorem test_fetch_at_257 :
    nextWhere (step (stateAt faultContinue 257#9 []))
      (fun t => t.fault == .outOfBounds && t.faultInfo == 257#9) = true := by decide

/-- V10: the operands of an instruction at 255 under WRAP are at 0 and 1. -/
theorem test_wrapped_operands :
    nextWhere (step (stateAt wrapContinue 255#9 [0x82#8, 0x03#8, 0x11#8]))
      (fun t => t.readReg 3 == 0x11#8 && t.pc == 2#9) = true := by decide

/-- H2: no step of a halted engine. -/
theorem test_halted_no_step : nextWhere (step (State.setHalted State.reset)) (fun _ => true) = false := by decide

/-- R18: the numbers of the fault codes. -/
theorem test_fault_codes :
    [FaultCode.none, .outOfBounds, .badRegister, .unsupportedAluOp, .invalidInstruction].map FaultCode.code =
      [0#3, 1#3, 2#3, 3#3, 4#3] := by decide

/-- A1 and A6. -/
theorem test_alu_add : alu .add 200#8 100#8 = some 44#8 := by decide
theorem test_alu_unsupported : alu (.unsupported 0) 1#8 1#8 = none := by decide

/-- O4: 0xC8 is written 200. -/
theorem test_render_200 : (Event.print 0xC8#8).render = ['2', '0', '0', '\n'] := by decide

/-- R5: the defaults. -/
theorem test_reset_parameters : State.reset.params = faultContinue := by decide

/-! ### The loader -/

/-- L1, its fourth, fifth and seventh kinds of line. -/
theorem test_load_mixed_lines :
    assemble (.text "# print 42\n10000010 # SET\n\n   00000000   trailing text\nthis line is skipped\n2\n1".toList) =
      .ok [0x82#8, 0#8, 1#8] := by decide

/-- L3. -/
theorem test_load_nine_digits : lineByte "000000001".toList = .ok (some 1#8) := by decide
/-- L5. -/
theorem test_load_256 : lineByte "100000000".toList = .error (.literalTooLarge 256) := by decide
/-- L6 and L7. -/
theorem test_load_prefix_skipped : lineByte "0b1010".toList = .ok none := by decide
theorem test_load_sign_skipped : lineByte "-101".toList = .ok none := by decide

/-! ### The host's word -/

theorem test_withFetchWord_runs :
    nextWhere (step (State.reset.withFetchWord 24 0x2A0382)) (fun t => t.readReg 3 == 42#8) = true := by decide

/-! ### Witnesses: for every statement with hypotheses, a state and operands that meet them -/

theorem witness_ExactByteDispatch :
    decode 0x01#8 8#8 9#8 = .ok .halt ∧ decode 0xA2#8 8#8 9#8 = .ok (.multiply 8#8 9#8) ∧ (0x01#8 : Byte) ≠ 0xA2#8 ∧
      (0x00#8 : Byte) ∉ [0x01#8, 0x47#8, 0x82#8, 0xA2#8] ∧ (0xA3#8 : Byte) ∉ [0x01#8, 0x47#8, 0x82#8, 0xA2#8] := by
  decide

theorem witness_WidthFromTopTwoBits : ∃ i, decode 0x47#8 255#8 0#8 = .ok i := ⟨_, rfl⟩

theorem witness_EncodeOfDecode :
    decodeBytes [0x47#8, 255#8, 0x01#8] = .ok (.printRegister 255#8, [0x01#8]) ∧
      decodeBytes [0x01#8] = .ok (.halt, []) := by decide

theorem witness_ResetState :
    (Session.loadFailed (State.resetWith wrapFatal) .sourceUnreadable).params = wrapFatal ∧ (State.setHalted State.reset).isRunning = false ∧
      (State.reset.recordFault .badRegister 8#9).isRunning = false := by decide

theorem witness_LoaderPlacesImage :
    bytesOfLines ["1".toList, [], "11".toList] = .ok [1#8, 3#8] ∧
      assemble (.text "10\n# no byte\n11".toList) = .ok [2#8, 3#8] ∧ (List.replicate 256 (0x01#8 : Byte)).length ≤ 256 :=
  ⟨by decide, by decide, by rw [List.length_replicate]⟩

theorem witness_LineGrammar_accepted :
    (∀ c ∈ [' ', '\t'], isSpace c = true) ∧ (∀ c ∈ "11111111".toList, c = '0' ∨ c = '1') ∧
      (∀ c ∈ ['#'].head?, isSpace c = true ∨ c = '#') ∧
      Nat.ofDigits 2 ("11111111".toList.reverse.map fun c => if c = '1' then 1 else 0) = 255 ∧
      Nat.ofDigits 2 ("100000000".toList.reverse.map fun c => if c = '1' then 1 else 0) = 256 := by
  simp [isSpace, Nat.ofDigits_cons]

/-- The empty line is of no accepted form. -/
theorem witness_LineGrammar_skipped :
    ¬ ∃ ws tok tail : List Char, [] = ws ++ tok ++ tail ∧ (∀ c ∈ ws, isSpace c = true) ∧ tok ≠ [] ∧
      (∀ c ∈ tok, c = '0' ∨ c = '1') ∧ (∀ c ∈ tail.head?, isSpace c = true ∨ c = '#') := by
  rintro ⟨ws, tok, tail, h, -, ht, -⟩
  simp at h
  exact ht h.2.1

theorem witness_LoadErrorExactly :
    assemble .unreadable = .error .sourceUnreadable ∧
      assemble (.text "100000000".toList) = .error (.literalTooLarge 256) := by decide

theorem witness_HostActions :
    assemble (.text "1".toList) = .ok [1#8] ∧ State.reset.isRunning = true ∧
      (State.setHalted State.reset).isRunning = false := by decide

theorem witness_StoppedEngineNamed :
    (State.reset.recordFault .outOfBounds 256#9).fault ≠ .none ∧
      (State.setHalted State.reset).fault = .none ∧ (State.setHalted State.reset).halted = true := by decide

/-- In bounds at the last address, 253, with a valid and an invalid opcode. -/
theorem witness_StepRunsDecodedInstruction :
    (∃ s : State, s.halted = false ∧ s.fault = .none ∧ fetchInBounds s ∧ s.params.addrPolicy = .fault ∧
      decode (s.byteAt 0) (s.byteAt 1) (s.byteAt 2) = .ok (.setImmediate 7#8 9#8)) ∧
    (∃ s : State, s.halted = false ∧ s.fault = .none ∧ fetchInBounds s ∧ s.params.addrPolicy = .wrap ∧
      decode (s.byteAt 0) (s.byteAt 1) (s.byteAt 2) = .error (.invalidOpcode 0xC0#8)) :=
  ⟨⟨stateAt faultContinue 253#9 [0x82#8, 7#8, 9#8], rfl, rfl, fun _ => by decide, rfl, by decide⟩,
    ⟨stateAt wrapContinue 255#9 [0xC0#8], rfl, rfl, fun h => (by cases h), rfl, by decide⟩⟩


/-- FetchFollowsAddressUnit and OutOfBoundsStep. -/
theorem witness_FetchFollowsAddressUnit_error :
    ∀ k < 3, ∃ s : State, s.params.addrPolicy = .fault ∧ 256 ≤ s.pc.toNat + k ∧ (∀ j < k, s.pc.toNat + j < 256) ∧
      s.halted = false ∧ s.fault = .none := by
  intro k hk
  match k, hk with
  | 0, _ => exact ⟨stateAt faultContinue 257#9 [], rfl, by decide, by decide, rfl, rfl⟩
  | 1, _ => exact ⟨stateAt faultContinue 255#9 [], rfl, by decide, by decide, rfl, rfl⟩
  | 2, _ => exact ⟨stateAt faultContinue 254#9 [], rfl, by decide, by decide, rfl, rfl⟩

theorem witness_FetchFollowsAddressUnit_ok :
    (∃ s : State, s.params.addrPolicy = .fault ∧ s.pc.toNat + 2 < 256) ∧ (∃ s : State, s.params.addrPolicy = .wrap) :=
  ⟨⟨stateAt faultContinue 253#9 [], rfl, by decide⟩, ⟨stateAt wrapContinue 255#9 [], rfl⟩⟩

/-- FetchLoadsLatches, StepEffectsBounded, FaultPriority, UnsupportedAluOpUnreachable: a step in bounds and one out. -/
theorem witness_FetchLoadsLatches :
    (∃ s t : State, step s = .next t ∧ fetchInBounds s) ∧ (∃ s t : State, step s = .next t ∧ ¬ fetchInBounds s) := by
  constructor
  · obtain ⟨t, ht, -⟩ := exists_of_nextWhere test_set_immediate
    exact ⟨_, t, ht, fun _ => by decide⟩
  · obtain ⟨t, ht, -⟩ := exists_of_nextWhere test_halt_at_254
    exact ⟨_, t, ht, fun h => absurd (h rfl) (by decide)⟩

/-- AdvanceByWidth and FaultsArePrecise: a step without a fault under each policy, and steps with each fault. -/
theorem witness_AdvanceByWidth :
    (∃ s t : State, step s = .next t ∧ t.fault = .none ∧ s.params.addrPolicy = .fault) ∧
    (∃ s t : State, step s = .next t ∧ t.fault = .none ∧ s.params.addrPolicy = .wrap) ∧
    (∃ s t : State, step s = .next t ∧ t.fault = .badRegister) ∧
    (∃ s t : State, step s = .next t ∧ t.fault = .outOfBounds) := by
  refine ⟨?_, ?_, ?_, ?_⟩
  · obtain ⟨t, ht, h⟩ := exists_of_nextWhere (o := step (stateAt faultContinue 253#9 [0xC0#8]))
      (p := fun t => t.fault == .none) (by decide)
    exact ⟨_, t, ht, by simpa using h, rfl⟩
  · obtain ⟨t, ht, h⟩ := exists_of_nextWhere (o := step (stateAt wrapContinue 255#9 [0x01#8]))
      (p := fun t => t.fault == .none) (by decide)
    exact ⟨_, t, ht, by simpa using h, rfl⟩
  · obtain ⟨t, ht, h⟩ := exists_of_nextWhere (o := step (stateAt faultContinue 0#9 [0x82#8, 8#8]))
      (p := fun t => t.fault == .badRegister) (by decide)
    exact ⟨_, t, ht, by simpa using h⟩
  · obtain ⟨t, ht, h⟩ := exists_of_nextWhere (o := step (stateAt faultContinue 254#9 []))
      (p := fun t => t.fault == .outOfBounds) (by decide)
    exact ⟨_, t, ht, by simpa using h⟩

/-- AdvanceByWidth's last clause: a step to 257, where the next one faults. -/
theorem witness_AdvanceByWidth_next :
    ∃ s t u : State, step s = .next t ∧ s.params.addrPolicy = .fault ∧ 256 ≤ t.pc.toNat ∧ step t = .next u := by
  obtain ⟨t, ht, h⟩ := exists_of_nextWhere (o := step (stateAt faultContinue 253#9 [0xC0#8]))
    (p := fun t => t.pc == 257#9 && t.isRunning) (by decide)
  rw [Bool.and_eq_true, beq_iff_eq] at h
  obtain ⟨u, hu, -⟩ := step_next_of_running h.2
  exact ⟨_, t, u, ht, rfl, by rw [h.1]; decide, hu⟩

/-- StepEffectsBounded's last clause: a step that changes the halted flag. -/
theorem witness_StepEffectsBounded : ∃ s t : State, step s = .next t ∧ t.halted ≠ s.halted := by
  obtain ⟨t, ht, h⟩ := exists_of_nextWhere (o := step (stateAt faultContinue 0#9 [0x01#8]))
    (p := fun t => t.halted) (by decide)
  exact ⟨_, t, ht, by rw [h]; decide⟩

/-- A PRINT-REGISTER whose ignored third byte differs, and a memory with the other one. -/
theorem witness_UnusedBytesIgnored :
    ∃ (s t u : State) (m : Memory), ({ s with mem := m } : State).byteAt 0 = s.byteAt 0 ∧
      ({ s with mem := m } : State).byteAt 1 = s.byteAt 1 ∧ ({ s with mem := m } : State).byteAt 2 ≠ s.byteAt 2 ∧
      s.byteAt 0 = 0x47#8 ∧ step s = .next t ∧ step { s with mem := m } = .next u := by
  obtain ⟨t, ht, -⟩ := exists_of_nextWhere (o := step (stateAt faultContinue 0#9 [0x47#8, 7#8, 1#8]))
    (p := fun _ => true) (by decide)
  obtain ⟨u, hu, -⟩ := exists_of_nextWhere (o := step (stateAt faultContinue 0#9 [0x47#8, 7#8, 2#8]))
    (p := fun _ => true) (by decide)
  exact ⟨_, t, u, (stateAt faultContinue 0#9 [0x47#8, 7#8, 2#8]).mem, by decide, by decide, by decide, by decide, ht, hu⟩

theorem witness_HaltStep :
    (∃ s : State, s.halted = false ∧ s.fault = .none ∧ s.byteAt 0 = 0x01#8 ∧ fetchInBounds s) ∧
    (∃ s : State, s.halted = false ∧ s.fault = .none ∧ s.byteAt 0 = 0x01#8 ∧ ¬ fetchInBounds s) :=
  ⟨⟨stateAt faultContinue 253#9 [0x01#8], rfl, rfl, by decide, fun _ => by decide⟩,
    ⟨stateAt faultContinue 254#9 [0x01#8], rfl, rfl, by decide, fun h => absurd (h rfl) (by decide)⟩⟩

theorem witness_SetImmediateStep :
    (∃ (s : State) (ra : RegIndex), s.halted = false ∧ s.fault = .none ∧ s.byteAt 0 = 0x82#8 ∧ fetchInBounds s ∧
      (s.byteAt 1).toNat = ra.val ∧ ra = 7) ∧
    (∃ s : State, s.halted = false ∧ s.fault = .none ∧ s.byteAt 0 = 0x82#8 ∧ fetchInBounds s ∧ (s.byteAt 1).toNat = 8) ∧
    (∃ s : State, s.halted = false ∧ s.fault = .none ∧ s.byteAt 0 = 0x82#8 ∧ ¬ fetchInBounds s) :=
  ⟨⟨stateAt faultContinue 0#9 [0x82#8, 7#8], 7, rfl, rfl, by decide, fun _ => by decide, by decide, rfl⟩,
    ⟨stateAt faultContinue 0#9 [0x82#8, 8#8], rfl, rfl, by decide, fun _ => by decide, by decide⟩,
    ⟨stateAt faultContinue 255#9 [0x82#8], rfl, rfl, by decide, fun h => absurd (h rfl) (by decide)⟩⟩

theorem witness_PrintRegisterStep :
    (∃ (s : State) (ra : RegIndex), s.halted = false ∧ s.fault = .none ∧ s.byteAt 0 = 0x47#8 ∧ fetchInBounds s ∧
      (s.byteAt 1).toNat = ra.val ∧ ra = 7) ∧
    (∃ s : State, s.halted = false ∧ s.fault = .none ∧ s.byteAt 0 = 0x47#8 ∧ fetchInBounds s ∧ (s.byteAt 1).toNat = 8) ∧
    (∃ s : State, s.halted = false ∧ s.fault = .none ∧ s.byteAt 0 = 0x47#8 ∧ ¬ fetchInBounds s) :=
  ⟨⟨stateAt faultContinue 0#9 [0x47#8, 7#8], 7, rfl, rfl, by decide, fun _ => by decide, by decide, rfl⟩,
    ⟨stateAt faultContinue 0#9 [0x47#8, 8#8], rfl, rfl, by decide, fun _ => by decide, by decide⟩,
    ⟨stateAt faultContinue 254#9 [0x47#8], rfl, rfl, by decide, fun h => absurd (h rfl) (by decide)⟩⟩

theorem witness_MultiplyStep :
    (∃ (s : State) (ra rb : RegIndex), s.halted = false ∧ s.fault = .none ∧ s.byteAt 0 = 0xA2#8 ∧ fetchInBounds s ∧
      (s.byteAt 1).toNat = ra.val ∧ (s.byteAt 2).toNat = rb.val ∧ ra = rb) ∧
    (∃ s : State, s.halted = false ∧ s.fault = .none ∧ s.byteAt 0 = 0xA2#8 ∧ fetchInBounds s ∧ (s.byteAt 1).toNat = 8) ∧
    (∃ s : State, s.halted = false ∧ s.fault = .none ∧ s.byteAt 0 = 0xA2#8 ∧ fetchInBounds s ∧ (s.byteAt 1).toNat = 7 ∧
      (s.byteAt 2).toNat = 8) ∧
    (∃ s : State, s.halted = false ∧ s.fault = .none ∧ s.byteAt 0 = 0xA2#8 ∧ ¬ fetchInBounds s) :=
  ⟨⟨stateAt faultContinue 0#9 [0xA2#8, 7#8, 7#8], 7, 7, rfl, rfl, by decide, fun _ => by decide, by decide, by decide, rfl⟩,
    ⟨stateAt faultContinue 0#9 [0xA2#8, 8#8], rfl, rfl, by decide, fun _ => by decide, by decide⟩,
    ⟨stateAt faultContinue 0#9 [0xA2#8, 7#8, 8#8], rfl, rfl, by decide, fun _ => by decide, by decide, by decide⟩,
    ⟨stateAt faultContinue 255#9 [0xA2#8], rfl, rfl, by decide, fun h => absurd (h rfl) (by decide)⟩⟩

/-- InvalidInstructionContinues and InvalidInstructionFatal. -/
theorem witness_InvalidInstruction :
    (∃ s : State, s.halted = false ∧ s.fault = .none ∧ s.params.invalidPolicy = .continueRun ∧
      s.byteAt 0 ∉ [0x01#8, 0x47#8, 0x82#8, 0xA2#8] ∧ fetchInBounds s) ∧
    (∃ s : State, s.halted = false ∧ s.fault = .none ∧ s.params.invalidPolicy = .continueRun ∧
      s.byteAt 0 ∉ [0x01#8, 0x47#8, 0x82#8, 0xA2#8] ∧ ¬ fetchInBounds s) ∧
    (∃ s : State, s.halted = false ∧ s.fault = .none ∧ s.params.invalidPolicy = .fatal ∧
      s.byteAt 0 ∉ [0x01#8, 0x47#8, 0x82#8, 0xA2#8] ∧ fetchInBounds s) ∧
    (∃ s : State, s.halted = false ∧ s.fault = .none ∧ s.params.invalidPolicy = .fatal ∧
      s.byteAt 0 ∉ [0x01#8, 0x47#8, 0x82#8, 0xA2#8] ∧ ¬ fetchInBounds s) :=
  ⟨⟨stateAt faultContinue 253#9 [0xFF#8], rfl, rfl, rfl, by decide, fun _ => by decide⟩,
    ⟨stateAt faultContinue 254#9 [0x00#8], rfl, rfl, rfl, by decide, fun h => absurd (h rfl) (by decide)⟩,
    ⟨stateAt faultFatal 253#9 [0xA0#8], rfl, rfl, rfl, by decide, fun _ => by decide⟩,
    ⟨stateAt faultFatal 254#9 [0x46#8], rfl, rfl, rfl, by decide, fun h => absurd (h rfl) (by decide)⟩⟩

/-- SetImmediateCompletes, PrintRegisterCompletes, MultiplyCompletes, RegisterIndexCheck: operands on both sides of 8. -/
theorem witness_operands :
    (7#8 : Byte).toNat = (7 : RegIndex).val ∧ (0#8 : Byte).toNat = (0 : RegIndex).val ∧ 8 ≤ (8#8 : Byte).toNat ∧
      (7#8 : Byte).toNat < 8 := by decide

/-- RegisterWriteFrame: both instructions, with operands that name registers and with ones that do not. -/
theorem witness_RegisterWriteFrame :
    ∀ i ∈ [Instr.setImmediate 7#8 255#8, .multiply 7#8 7#8, .setImmediate 8#8 0#8, .multiply 7#8 8#8],
      ∃ t, exec i State.reset = .next t := by
  intro i hi
  have h : ∀ i ∈ [Instr.setImmediate 7#8 255#8, .multiply 7#8 7#8, .setImmediate 8#8 0#8, .multiply 7#8 8#8],
      nextWhere (exec i State.reset) (fun _ => true) = true := by decide
  obtain ⟨t, ht, -⟩ := exists_of_nextWhere (h i hi)
  exact ⟨t, ht⟩

/-- NoRegisterWriteFrame. -/
theorem witness_NoRegisterWriteFrame :
    ∀ i ∈ [Instr.halt, .printRegister 7#8, .printRegister 8#8], ∃ t, exec i State.reset = .next t := by
  intro i hi
  have h : ∀ i ∈ [Instr.halt, .printRegister 7#8, .printRegister 8#8],
      nextWhere (exec i State.reset) (fun _ => true) = true := by decide
  obtain ⟨t, ht, -⟩ := exists_of_nextWhere (h i hi)
  exact ⟨t, ht⟩

theorem witness_InvalidInstructionFrame :
    (∃ t, execInvalid State.reset = .next t) ∧ (∃ t, execInvalid (State.resetWith wrapFatal) = .next t) :=
  ⟨⟨_, rfl⟩, ⟨_, rfl⟩⟩

theorem witness_FaultIsTerminal :
    ∃ s : State, s.fault ≠ .none ∧ Session.start (.started s) = .ok (.started s) :=
  ⟨State.reset.recordFault .outOfBounds 257#9, by decide, by decide⟩

theorem witness_AluFunction : alu .mul (State.reset.readReg 7) (State.reset.readReg 7) = some 144#8 := by decide

/-- OutPortCarriesEvent: a step in the invariant that prints, one that meets an invalid opcode, one that emits nothing. -/
theorem reset_inv : State.reset.Inv :=
  ⟨rfl, by simp [pcInRange, State.reset, State.resetWith, Params.default, Config.loadBase], fun _ => rfl, rfl,
    fun _ h => by cases h⟩

theorem witness_OutPortCarriesEvent_invalid :
    State.reset.Inv ∧ ∃ t, step State.reset = .next t ∧ t.out = State.reset.out ++ [.invalid 0#9 0#8] := by
  obtain ⟨t, ht, h⟩ := exists_of_nextWhere (o := step State.reset)
    (p := fun t => t.out == [.invalid 0#9 0#8]) (by decide)
  exact ⟨reset_inv, t, ht, beq_iff_eq.mp h⟩

theorem witness_OutPortCarriesEvent_print :
    (State.reset.loadImage [0x47#8, 7#8]).Inv ∧ ∃ t, step (State.reset.loadImage [0x47#8, 7#8]) = .next t ∧
      t.out = (State.reset.loadImage [0x47#8, 7#8]).out ++ [.print 0xF4#8] := by
  obtain ⟨t, ht, h⟩ := exists_of_nextWhere (o := step (State.reset.loadImage [0x47#8, 7#8]))
    (p := fun t => t.out == [.print 0xF4#8]) (by decide)
  exact ⟨⟨by decide, reset_inv.pcRange, reset_inv.haltedNotFaulted, reset_inv.faultStatus, reset_inv.events⟩, t, ht,
    beq_iff_eq.mp h⟩

/-- RunEndsUnderFault: the lowest and the highest `pc` of its range, a completed step, and a step from 254. -/
theorem witness_RunEndsUnderFault :
    (∃ s t : State, s.params.addrPolicy = .fault ∧ s.pc.toNat = 0 ∧ (runFor 0 s).isRunning = true ∧
      step (runFor 0 s) = .next t ∧ t.fault = .none) ∧
    (∃ s t : State, s.params.addrPolicy = .fault ∧ s.pc.toNat = 257 ∧ step s = .next t) := by
  constructor
  · obtain ⟨t, ht, h⟩ := exists_of_nextWhere (o := step State.reset) (p := fun t => t.fault == .none) (by decide)
    exact ⟨State.reset, t, rfl, rfl, by decide, ht, by simpa using h⟩
  · obtain ⟨t, ht, -⟩ := exists_of_nextWhere test_fetch_at_257
    exact ⟨_, t, rfl, by decide, ht⟩

theorem witness_ZeroMemoryDivergesUnderWrap :
    ∃ s : State, s.halted = false ∧ s.fault = .none ∧
      s.params = { addrPolicy := .wrap, invalidPolicy := .continueRun } ∧ ∀ a : CellAddr, s.mem.read a = 0#8 :=
  ⟨State.resetWith wrapContinue, rfl, rfl, rfl, fun _ => rfl⟩

/-- EndlessRunIsPeriodic: under WRAP and CONTINUE over a memory of zeros the run never ends. -/
theorem witness_EndlessRunIsPeriodic : ∃ s : State, ∀ n, (runFor n s).isRunning = true := by
  suffices h : ∀ n (s : State), s.isRunning = true → s.params = wrapContinue → s.mem = Memory.empty →
      (runFor n s).isRunning = true from
    ⟨State.resetWith wrapContinue, fun n => h n _ (by decide) rfl rfl⟩
  intro n
  induction n with
  | zero => exact fun s hs _ _ => hs
  | succ n ih =>
    intro s hs hp hm
    obtain ⟨t, ht, hcase⟩ := step_next_of_running hs
    simp only [runFor, ht]
    have hf := (State.isRunning_iff s).mp hs
    have h0 : s.fetched.ir = 0#8 := by simp [State.byteAt, hm]
    rcases hcase with ⟨h, -⟩ | ⟨-, harm⟩
    · rw [hp] at h
      cases h
    · cases harm with
      | halt op _ => rw [h0] at op; exact absurd op (by decide)
      | print op _ _ => rw [h0] at op; exact absurd op (by decide)
      | setImm op _ _ => rw [h0] at op; exact absurd op (by decide)
      | mul op _ _ _ => rw [h0] at op; exact absurd op (by decide)
      | badA op _ _ => rw [h0] at op; exact absurd op (by decide)
      | badB op _ _ _ => rw [h0] at op; exact absurd op (by decide)
      | skipped _ _ eq =>
        subst eq
        refine ih _ ?_ (by simpa using hp) (by simpa using hm)
        rw [State.isRunning_iff]
        simpa using hf
      | fatal _ hpf _ =>
        rw [State.fetched_params, hp] at hpf
        cases hpf

/-- RunningOffTheEnd: `u` at 0, 253, 254 and 255, under each pair of policies that has a clause. -/
theorem witness_RunningOffTheEnd :
    ∀ u ∈ [0, 253, 254, 255], ∀ p ∈ [faultContinue, wrapContinue, faultFatal, wrapFatal],
      ∃ s : State, s.halted = false ∧ s.fault = .none ∧ s.pc.toNat = u ∧ u ≤ 255 ∧ s.params = p ∧
        ∀ a : CellAddr, u ≤ a.toNat → s.mem.read a = 0#8 := by
  intro u hu p hp
  refine ⟨{ State.resetWith p with pc := BitVec.ofNat 9 u }, rfl, rfl, ?_, ?_, rfl, fun _ _ => rfl⟩
  · exact (by decide : ∀ u ∈ [0, 253, 254, 255], (BitVec.ofNat 9 u).toNat = u) u hu
  · exact (by decide : ∀ u ∈ [0, 253, 254, 255], u ≤ 255) u hu

/-- StepKeepsInvariant: see also witness_OutPortCarriesEvent_print. -/
theorem witness_StepKeepsInvariant : State.reset.Inv ∧ ∃ t, step State.reset = .next t := by
  obtain ⟨-, t, ht, -⟩ := witness_OutPortCarriesEvent_invalid
  exact ⟨reset_inv, t, ht⟩

/-- LoadErrorIsNoFault and ResetAndLoadMeetInvariant: a load that succeeds and one that fails, whatever it leaves in
memory, each after a reset of an engine that has faulted. -/
theorem witness_LoadErrorIsNoFault (left : Vector Byte 256) :
    ∃ s t u : State, s.fault ≠ .none ∧
      Session.load (.text "1".toList) left (Session.started s).reset = .ok (.loaded t) ∧
      Session.load .unreadable left (Session.started s).reset = .ok (.loadFailed u .sourceUnreadable) :=
  ⟨State.reset.recordFault .badRegister 8#9, _, _, by decide, rfl, rfl⟩

/-- FetchWordRuns, at a state where a fetch is in bounds and at one where it is not and the engine is stopped. -/
theorem witness_FetchWordRuns :
    State.reset.mem.wf = true ∧ decodeTableWord 8 0xA2 = some (.multiply 0#8 0#8) ∧
      (stateAt faultContinue 257#9 []).mem.wf = true := by decide

end Sys2Proof.Tests
end

/-! The parameters of R5 stay those of one machine: no arm, no step and no run changes them. -/

namespace Sys2Proof.Machine

/-- The parameters across the dispatch of a fetched step. -/
theorem ArmCase.params_eq {s t : State} (h : ArmCase s t) : t.params = s.params := by
  cases h with
  | halt _ eq => simp [eq]
  | print _ _ eq => simp [eq]
  | setImm _ _ eq => simp [eq]
  | mul _ _ _ eq => simp [eq]
  | badA _ _ eq => simp [eq]
  | badB _ _ _ eq => simp [eq]
  | skipped _ _ eq => simp [eq]
  | fatal _ _ eq => simp [eq]

/-- The parameters across one step: through the fetch fault (R31), or through the fetch and the dispatch. -/
theorem step_params {s t : State} (h : step s = .next t) : t.params = s.params := by
  obtain ⟨-, ⟨-, -, rfl⟩ | ⟨-, harm⟩⟩ := step_cases h
  · exact State.recordFault_params ..
  · exact harm.params_eq.trans s.fetched_params

/-- The induction over a run, once: what every step keeps, a run of any length keeps. -/
theorem runFor_keeps {P : State → Prop} (hstep : ∀ s t, P s → step s = .next t → P t) (n : Nat) (s : State)
    (hs : P s) : P (runFor n s) := by
  induction n generalizing s with
  | zero => exact hs
  | succ n ih =>
    unfold runFor
    split
    · next t ht => exact ih t (hstep s t hs ht)
    · exact hs
    · exact hs

/-- Settles O51: the run keeps the property of having the parameters of its first state (R5). -/
theorem parametersFixed : Obligations.ParametersFixed := by
  intro n s
  exact runFor_keeps (P := fun u => u.params = s.params) (fun _ _ hu ht => (step_params ht).trans hu) n s rfl

end Sys2Proof.Machine

/-! The invariant of the machine: each write to the state keeps it under its own side condition, so every arm of the
dispatch and every step does. -/

namespace Sys2Proof.Machine

/-- The advance of R57 from a fetchable `pc` stays in the range of R60: 253 + 4 under FAULT, a sum mod 256 under WRAP. -/
theorem pcInRange_nextPc {p : AddrPolicy} {pc : PcWord} {w : Nat} (hpc : p = .fault → pc.toNat ≤ 253) (hw : w ≤ 4) :
    pcInRange p (nextPc p pc w) := by
  cases p with
  | fault =>
    have hle : pc.toNat ≤ 253 := hpc rfl
    have hsum : (nextPc .fault pc w).toNat = pc.toNat + w := nextPc_fault (by omega)
    simp only [pcInRange]
    omega
  | wrap =>
    simp only [pcInRange, nextPc_wrap]
    exact Nat.mod_lt _ (by decide)

/-- A `pc` in its range whose fetch is in bounds is an address of memory (R24). -/
theorem toNat_lt_256_of_pcInRange {p : AddrPolicy} {pc : PcWord} (h : pcInRange p pc)
    (hpc : p = .fault → pc.toNat ≤ 253) : pc.toNat < 256 := by
  cases p with
  | fault => exact Nat.lt_of_le_of_lt (hpc rfl) (by decide)
  | wrap => exact h

/-- Without a fault, the legality of the fault status rests on `fault_info` alone, not on `pc` or the latches. -/
theorem faultStatusLegal_congr {s t : State} (h : faultStatusLegal s) (hs : s.fault = .none) (ht : t.fault = .none)
    (hinfo : t.faultInfo = s.faultInfo) : faultStatusLegal t := by
  simpa only [faultStatusLegal, hs, ht, hinfo] using h

/-- The lowest out-of-bounds fetch address fits `fault_info` (R18). -/
theorem toNat_ofNat_max_256 (pc : PcWord) : (BitVec.ofNat 9 (max 256 pc.toNat)).toNat = max 256 pc.toNat :=
  (BitVec.toNat_ofNat ..).trans (Nat.mod_eq_of_lt (max_lt (by decide) pc.isLt))

/-- A register index of 8 or more is a legal `fault_info` of BAD_REGISTER (R18). -/
theorem faultStatusLegal_badRegister (s : State) {b : Byte} (hb : 8 ≤ b.toNat) :
    faultStatusLegal (s.recordFault .badRegister (b.setWidth 9)) := by
  have hlt : b.toNat < 256 := b.isLt
  have hinfo : (b.setWidth 9).toNat = b.toNat := BitVec.toNat_setWidth_of_le (by decide)
  simp only [faultStatusLegal, State.recordFault_fault, State.recordFault_faultInfo]
  omega

theorem State.Inv.writeReg {s : State} (h : s.Inv) (r : RegIndex) (v : Byte) : (s.writeReg r v).Inv :=
  ⟨h.memCanonical, h.pcRange, h.haltedNotFaulted, h.faultStatus, h.events⟩

theorem State.Inv.emit {s : State} (h : s.Inv) {e : Event} (he : eventLegal s.params e) : (s.emit e).Inv where
  memCanonical := h.memCanonical
  pcRange := h.pcRange
  haltedNotFaulted := h.haltedNotFaulted
  faultStatus := h.faultStatus
  events e' he' := by
    rw [State.emit_out, List.mem_append, List.mem_singleton] at he'
    obtain hold | rfl := he'
    · exact h.events e' hold
    · exact he

theorem State.Inv.setHalted {s : State} (h : s.Inv) (hf : s.fault = .none) : s.setHalted.Inv :=
  ⟨h.memCanonical, h.pcRange, fun _ => hf, h.faultStatus, h.events⟩

/-- Loading the latches changes the byte that INVALID_INSTRUCTION reports, so it needs an engine without a fault. -/
theorem State.Inv.fetched {s : State} (h : s.Inv) (hf : s.fault = .none) : s.fetched.Inv where
  memCanonical := h.memCanonical
  pcRange := h.pcRange
  haltedNotFaulted := h.haltedNotFaulted
  faultStatus := faultStatusLegal_congr h.faultStatus hf hf rfl
  events := h.events

/-- Moving `pc` changes the address that OUT_OF_BOUNDS reports, so it needs an engine without a fault. -/
theorem State.Inv.advance {s : State} (h : s.Inv) (hf : s.fault = .none)
    (hpc : s.params.addrPolicy = .fault → s.pc.toNat ≤ 253) {w : Nat} (hw : w ≤ 4) : (s.advance w).Inv where
  memCanonical := h.memCanonical
  pcRange := pcInRange_nextPc hpc hw
  haltedNotFaulted := h.haltedNotFaulted
  faultStatus := faultStatusLegal_congr h.faultStatus hf hf rfl
  events := h.events

/-- A legal fault recorded on an engine that has not halted (R23). -/
theorem State.Inv.recordFault {s : State} (h : s.Inv) (hh : s.halted = false) {c : FaultCode} {info : PcWord}
    (hl : faultStatusLegal (s.recordFault c info)) : (s.recordFault c info).Inv where
  memCanonical := h.memCanonical
  pcRange := h.pcRange
  haltedNotFaulted ht := absurd (hh.symm.trans ht) (by decide)
  faultStatus := hl
  events := h.events

/-- The dispatch of a fetched step keeps the invariant on a running engine whose fetch was in bounds. -/
theorem ArmCase.inv {s t : State} (harm : ArmCase s t) (h : s.Inv) (hf : s.fault = .none) (hh : s.halted = false)
    (hpc : s.params.addrPolicy = .fault → s.pc.toNat ≤ 253) : t.Inv := by
  cases harm with
  | halt _ eq => exact eq ▸ (h.setHalted hf).advance hf hpc (by decide)
  | print _ ha eq =>
    have hlegal : eventLegal s.params (.print (s.readReg ⟨s.operandA.toNat, ha⟩)) := trivial
    exact eq ▸ (h.emit hlegal).advance hf hpc (by decide)
  | setImm _ _ eq => exact eq ▸ (h.writeReg _ _).advance hf hpc (by decide)
  | mul _ _ _ eq => exact eq ▸ (h.writeReg _ _).advance hf hpc (by decide)
  | badA _ ha eq => exact eq ▸ h.recordFault hh (faultStatusLegal_badRegister s ha)
  | badB _ _ hb eq => exact eq ▸ h.recordFault hh (faultStatusLegal_badRegister s hb)
  | skipped op hp eq =>
    have hlegal : eventLegal s.params (.invalid s.pc s.ir) := ⟨hp, op, toNat_lt_256_of_pcInRange h.pcRange hpc⟩
    exact eq ▸ (h.emit hlegal).advance hf hpc (width_le s.ir)
  | fatal op hp eq => exact eq ▸ h.recordFault hh ⟨hp, op, rfl⟩

/-- Settles O49: through the fetch fault (R31), or through the fetch and the dispatch. -/
theorem stepKeepsInvariant : Obligations.StepKeepsInvariant := by
  intro s t h ht
  obtain ⟨hrun, hcase⟩ := step_cases ht
  obtain ⟨hf, hh⟩ := s.isRunning_iff.mp hrun
  obtain ⟨hp, hpc, rfl⟩ | ⟨hpc, harm⟩ := hcase
  · exact h.recordFault hh ⟨hp, hpc, toNat_ofNat_max_256 s.pc⟩
  · exact harm.inv (h.fetched hf) hf hh hpc

end Sys2Proof.Machine

/-! The output: a step appends at most one event (R21), and the output port carries it (R22). -/

namespace Sys2Proof.Machine

/-- The output across the dispatch of a fetched step: `Print` and a skipped invalid instruction emit, no other arm. -/
theorem ArmCase.out_cases {s t : State} (h : ArmCase s t) : t.out = s.out ∨ ∃ e, t.out = s.out ++ [e] := by
  cases h with
  | halt _ eq => exact .inl (by simp [eq])
  | print _ _ eq => exact .inr ⟨_, by rw [eq, State.advance_out, State.emit_out]⟩
  | setImm _ _ eq => exact .inl (by simp [eq])
  | mul _ _ _ eq => exact .inl (by simp [eq])
  | badA _ _ eq => exact .inl (by simp [eq])
  | badB _ _ _ eq => exact .inl (by simp [eq])
  | skipped _ _ eq => exact .inr ⟨_, by rw [eq, State.advance_out, State.emit_out]⟩
  | fatal _ _ eq => exact .inl (by simp [eq])

/-- The output across one step. -/
theorem step_out_cases {s t : State} (h : step s = .next t) : t.out = s.out ∨ ∃ e, t.out = s.out ++ [e] := by
  obtain ⟨-, ⟨-, -, rfl⟩ | ⟨-, harm⟩⟩ := step_cases h
  · exact .inl (State.recordFault_out ..)
  · exact harm.out_cases

/-- A run of `n + 1` steps is a step and a run of `n`, or has ended where it started (R59). -/
theorem runFor_succ_cases (n : Nat) (s : State) :
    (∃ t, step s = .next t ∧ runFor (n + 1) s = runFor n t) ∨ runFor (n + 1) s = s := by
  cases hs : step s with
  | next t => exact .inl ⟨t, rfl, by simp only [runFor, hs]⟩
  | fault _ => exact .inr (by simp only [runFor, hs])
  | refused _ => exact .inr (by simp only [runFor, hs])

/-- Settles O42: by induction on the number of steps, the first step's event standing before those of the rest. -/
theorem outputOnlyGrows : Obligations.OutputOnlyGrows := by
  intro n
  induction n with
  | zero => exact fun s => ⟨[], (List.append_nil _).symm, Nat.le_refl 0⟩
  | succ n ih =>
    intro s
    obtain ⟨t, ht, hrun⟩ | hrun := runFor_succ_cases n s
    · obtain ⟨es, hes, hlen⟩ := ih t
      rw [hrun, hes]
      obtain hout | ⟨e, hout⟩ := step_out_cases ht
      · exact ⟨es, by rw [hout], Nat.le_succ_of_le hlen⟩
      · exact ⟨e :: es, by simp [hout], Nat.succ_le_succ hlen⟩
    · exact ⟨[], by rw [hrun, List.append_nil], Nat.zero_le _⟩

theorem outPort_of_out_eq {s t : State} (h : t.out = s.out) : outPort s t = outPortOf none := by
  simp [outPort, h]

theorem outPort_of_out_append {s t : State} {e : Event} (h : t.out = s.out ++ [e]) :
    outPort s t = outPortOf (some e) := by
  simp [outPort, h]

theorem outPortOf_some_valid (e : Event) : (outPortOf (some e)).valid = true := by
  cases e <;> rfl

/-- `out_valid` is 1 exactly for a step that emitted an event (R22). -/
theorem outPort_valid_iff {s t : State} (h : step s = .next t) : (outPort s t).valid = true ↔ t.out ≠ s.out := by
  obtain hout | ⟨e, hout⟩ := step_out_cases h
  · simp [outPort_of_out_eq hout, outPortOf, hout]
  · simp [outPort_of_out_append hout, outPortOf_some_valid, hout]

/-- Settles O43: the event of an invalid instruction is legal after the step (O49), so its address fits `out_pc`. -/
theorem outPortCarriesEvent : Obligations.OutPortCarriesEvent := by
  intro s t h ht
  refine ⟨outPort_valid_iff ht, fun v hout => ?_, fun p b hout => ?_⟩
  · rw [outPort_of_out_append hout]
    exact ⟨rfl, rfl⟩
  · rw [outPort_of_out_append hout]
    obtain ⟨-, -, hp⟩ : eventLegal t.params (.invalid p b) :=
      (stepKeepsInvariant s t h ht).events _ (by simp [hout])
    exact ⟨rfl, rfl, (BitVec.toNat_setWidth ..).trans (Nat.mod_eq_of_lt hp)⟩

end Sys2Proof.Machine

/-! The memory address unit and its bounds check (R31). -/

namespace Sys2Proof.Machine

theorem fetch_of_outOfBounds {s : State} (hp : s.params.addrPolicy = .fault) (hpc : 254 ≤ s.pc.toNat) :
    fetch s = .error (BitVec.ofNat 9 (max 256 s.pc.toNat)) := by
  obtain ⟨-, -, hf⟩ | ⟨hin, -⟩ := fetch_cases s
  · exact hf
  · have hle : s.pc.toNat ≤ 253 := hin hp
    omega

theorem fetch_of_inBounds {s : State} (hin : s.params.addrPolicy = .fault → s.pc.toNat ≤ 253) :
    fetch s = .ok s.fetched := by
  obtain ⟨hp, hpc, -⟩ | ⟨-, hf⟩ := fetch_cases s
  · have hle : s.pc.toNat ≤ 253 := hin hp
    omega
  · exact hf

/-- The lowest of consecutive addresses that is 256 or more is 256, or the first of them. -/
theorem max_256_eq_lowest {n k : Nat} (hk : 256 ≤ n + k) (hlow : ∀ j < k, n + j < 256) : max 256 n = n + k := by
  cases k with
  | zero => exact max_eq_right hk
  | succ j =>
    have hj : n + j < 256 := hlow j (Nat.lt_succ_self j)
    omega

/-- Settles O15: the fetch answers 256 or `pc`, whichever is greater, or latches the three bytes. -/
theorem fetchFollowsAddressUnit : Obligations.FetchFollowsAddressUnit := by
  refine ⟨fun s k hp hk hge hlow => ?_, fun s _ hin => ?_, fun s hp => ?_⟩
  · rw [fetch_of_outOfBounds hp (by omega), max_256_eq_lowest hge hlow]
  · exact fetch_of_inBounds fun _ => by omega
  · have hf : fetch s = .ok s.fetched := fetch_of_inBounds fun h => absurd (hp.symm.trans h) (by decide)
    simp only [ofNat_mod_256]
    exact hf

/-- A fetch out of bounds is the whole of its step, whatever the instruction there (R31, R76). -/
theorem step_of_outOfBounds {s : State} (hrun : s.isRunning = true) (hp : s.params.addrPolicy = .fault)
    (hpc : 254 ≤ s.pc.toNat) :
    step s = .next (s.recordFault .outOfBounds (BitVec.ofNat 9 (max 256 s.pc.toNat))) := by
  rw [step_of_running hrun, fetch_of_outOfBounds hp hpc]
  rfl

/-- Settles O16: the address reported is 256 from 254 and 255, and `pc` from 256 on. -/
theorem outOfBoundsStep : Obligations.OutOfBoundsStep := by
  intro s hh hf hp
  have hrun : s.isRunning = true := s.isRunning_iff.mpr ⟨hf, hh⟩
  constructor
  · intro hpc
    rw [step_of_outOfBounds hrun hp (by omega), max_eq_left (by omega)]
    rfl
  · intro hpc
    rw [step_of_outOfBounds hrun hp (by omega), max_eq_right hpc, BitVec.ofNat_toNat, BitVec.setWidth_eq]
    rfl

end Sys2Proof.Machine

/-! The table word of an encoding: a word packed from bytes gives each of them back, lowest first (R26, R43). -/

namespace Sys2Proof

/-- The word of a byte sequence, first byte lowest. -/
def packBytes (bs : List Byte) : Nat := bs.foldr (fun b w => b.toNat + 256 * w) 0

theorem packBytes_cons (b : Byte) (bs : List Byte) : packBytes (b :: bs) = b.toNat + 256 * packBytes bs := rfl

theorem packBytes_lt (bs : List Byte) : packBytes bs < 256 ^ bs.length := by
  induction bs with
  | nil => exact Nat.one_pos
  | cons b bs ih =>
    have hb : b.toNat < 256 := b.isLt
    rw [packBytes_cons, List.length_cons, Nat.pow_succ']
    omega

/-- Byte `k` of a packed word is byte `k` of the sequence, and 0 after its end. -/
theorem byteOfWord_packBytes (bs : List Byte) (k : Nat) : byteOfWord (packBytes bs) k = bs.getD k 0 := by
  induction bs generalizing k with
  | nil => exact congrArg (BitVec.ofNat 8) (Nat.zero_div _)
  | cons b bs ih =>
    have hb : b.toNat < 256 := b.isLt
    cases k with
    | zero =>
      apply BitVec.eq_of_toNat_eq
      simp only [byteOfWord, packBytes_cons, Nat.pow_zero, Nat.div_one, BitVec.toNat_ofNat, List.getD_cons_zero]
      omega
    | succ k =>
      have htail : (b.toNat + 256 * packBytes bs) / 256 = packBytes bs := by omega
      rw [List.getD_cons_succ, ← ih k]
      simp only [byteOfWord, packBytes_cons, Nat.pow_succ', ← Nat.div_div_eq_div_mul, htail]

/-- The fetch of a packed word reads the sequence, its bytes after the end 0. -/
theorem tableBytes_packBytes (bs : List Byte) :
    tableBytes (8 * bs.length) (packBytes bs) = (bs.getD 0 0, bs.getD 1 0, bs.getD 2 0) := by
  have hmod : packBytes bs % 2 ^ (8 * bs.length) = packBytes bs := by
    rw [Nat.pow_mul]
    exact Nat.mod_eq_of_lt (packBytes_lt bs)
  simp only [tableBytes, hmod, byteOfWord_packBytes]

/-- The three bytes of a fetch at an encoding decode to the instruction. -/
theorem decode_encode_getD (i : Instr) :
    decode ((encode i).getD 0 0) ((encode i).getD 1 0) ((encode i).getD 2 0) = .ok i := by
  cases i with
  | halt => exact decode_opHalt 0 0
  | printRegister a => exact decode_opPrintRegister a 0
  | setImmediate a b => exact decode_opSetImmediate a b
  | multiply a b => exact decode_opMultiply a b

/-- Settles O6: the word gives the bytes of the encoding back, and they decode to the instruction. -/
theorem tableWordOfEncode : Obligations.TableWordOfEncode := by
  intro i
  change decodeTableWord (8 * (encode i).length) (packBytes (encode i)) = some i
  simp only [decodeTableWord, tableBytes_packBytes, decode_encode_getD]

end Sys2Proof

/-! The decoder on byte sequences, and the rows of the opcode map (R38, R39, R42, R43). -/

namespace Sys2Proof

@[simp] theorem operandCount_opHalt : operandCount opHalt = 0 := by decide
@[simp] theorem operandCount_opPrintRegister : operandCount opPrintRegister = 1 := by decide
@[simp] theorem operandCount_opSetImmediate : operandCount opSetImmediate = 2 := by decide
@[simp] theorem operandCount_opMultiply : operandCount opMultiply = 2 := by decide

theorem operandCount_eq (ir : Byte) : operandCount ir = ir.toNat / 64 := by
  have hlt : ir.toNat < 256 := ir.isLt
  have hshift : ir.toNat >>> 6 = ir.toNat / 64 := Nat.shiftRight_eq_div_pow ..
  rw [operandCount, BitVec.extractLsb'_toNat, hshift]
  omega

/-- The four rows of R43, each opcode byte written out. -/
theorem isOpcode_iff_mem (ir : Byte) : isOpcode ir = true ↔ ir ∈ [0x01#8, 0x47#8, 0x82#8, 0xA2#8] := by
  simp [isOpcode_iff, opHalt, opPrintRegister, opSetImmediate, opMultiply]

theorem isOpcode_opcode (i : Instr) : isOpcode i.opcode = true := by
  cases i <;> rfl

theorem isOpcode_of_decode {ir a b : Byte} {i : Instr} (h : decode ir a b = .ok i) : isOpcode ir = true :=
  opcode_of_decode h ▸ isOpcode_opcode i

theorem decode_of_not_isOpcode {ir : Byte} (h : isOpcode ir = false) (a b : Byte) :
    decode ir a b = .error (.invalidOpcode ir) := by
  cases hd : decode ir a b with
  | ok i => exact absurd (isOpcode_of_decode hd) (Bool.eq_false_iff.mp h)
  | error r =>
    obtain ⟨-, he⟩ | ⟨-, he⟩ | ⟨-, he⟩ | ⟨-, he⟩ | ⟨-, he⟩ := decode_cases ir a b <;> rw [hd] at he <;> cases he
    rfl

/-- A decoded instruction is encoded by its opcode byte and as many of the bytes after it as the operand count says. -/
theorem encode_of_decode {ir a b : Byte} {i : Instr} (h : decode ir a b = .ok i) :
    encode i = ir :: [a, b].take (operandCount ir) ∧ operandCount ir ≤ 2 := by
  obtain ⟨rfl, hd⟩ | ⟨rfl, hd⟩ | ⟨rfl, hd⟩ | ⟨rfl, hd⟩ | ⟨-, hd⟩ := decode_cases ir a b <;> rw [hd] at h <;> cases h
  · simp [encode]
  · simp [encode]
  · simp [encode]
  · simp [encode]

/-- A byte sequence decodes exactly where its first byte and the two after it do (a byte that is not there being 0)
and its operands are all there; the bytes left over are those after the operands. -/
theorem decodeBytes_cons_ok_iff {ir : Byte} {ops rest : List Byte} {i : Instr} :
    decodeBytes (ir :: ops) = .ok (i, rest) ↔
      decode ir (ops.getD 0 0) (ops.getD 1 0) = .ok i ∧ operandCount ir ≤ ops.length ∧
        ops.drop (operandCount ir) = rest := by
  simp only [decodeBytes, width, Nat.add_lt_add_iff_right]
  by_cases hshort : isOpcode ir = true ∧ ops.length < operandCount ir
  · rw [if_pos hshort]
    exact iff_of_false (by simp) fun ⟨_, hlen, _⟩ => Nat.not_le.mpr hshort.2 hlen
  · rw [if_neg hshort]
    cases hd : decode ir (ops.getD 0 0) (ops.getD 1 0) with
    | error r => simp
    | ok j =>
      have hlen : operandCount ir ≤ ops.length := Nat.not_lt.mp fun hlt => hshort ⟨isOpcode_of_decode hd, hlt⟩
      simp [hlen]

/-- Settles O4: the operand count of each opcode byte is the number of operand bytes its encoding has. -/
theorem decodeOfEncode : Obligations.DecodeOfEncode := by
  intro i rest
  cases i with
  | halt => exact decodeBytes_cons_ok_iff.mpr ⟨decode_opHalt _ _, by simp, by simp⟩
  | printRegister a => exact decodeBytes_cons_ok_iff.mpr ⟨decode_opPrintRegister a _, by simp, by simp⟩
  | setImmediate a b => exact decodeBytes_cons_ok_iff.mpr ⟨decode_opSetImmediate a b, by simp, by simp⟩
  | multiply a b => exact decodeBytes_cons_ok_iff.mpr ⟨decode_opMultiply a b, by simp, by simp⟩

/-- The operands that are there are the first bytes of the sequence they are fetched from. -/
theorem take_operands {ops : List Byte} {n : Nat} (hn : n ≤ 2) (hlen : n ≤ ops.length) :
    [ops.getD 0 0, ops.getD 1 0].take n = ops.take n := by
  match ops, n with
  | _, 0 => rfl
  | _ :: _, 1 => rfl
  | _ :: _ :: _, 2 => rfl

/-- Settles O5: the encoding is the opcode byte and the operands taken, and the rest is what is dropped after them. -/
theorem encodeOfDecode : Obligations.EncodeOfDecode := by
  intro bs i rest h
  cases bs with
  | nil => cases h
  | cons ir ops =>
    obtain ⟨hd, hlen, rfl⟩ := decodeBytes_cons_ok_iff.mp h
    obtain ⟨henc, hcount⟩ := encode_of_decode hd
    rw [henc, take_operands hcount hlen, List.cons_append, List.take_append_drop]

/-- Settles O2: the opcode of a decoded instruction is the byte it was decoded from, so other bytes give others. -/
theorem exactByteDispatch : Obligations.ExactByteDispatch := by
  refine ⟨fun ir a b i h => ?_, fun ir ir' a b a' b' i i' h h' hne => ?_, fun ir a b hmem => ?_⟩
  · exact ⟨(isOpcode_iff_mem ir).mp (isOpcode_of_decode h), opcode_of_decode h⟩
  · have hop : i.opcode ≠ i'.opcode := by rwa [opcode_of_decode h, opcode_of_decode h']
    exact ⟨hop, fun heq => hop (congrArg Instr.opcode heq)⟩
  · have hop : isOpcode ir = false := Bool.eq_false_iff.mpr fun h => hmem ((isOpcode_iff_mem ir).mp h)
    exact decode_of_not_isOpcode hop a b

/-- Settles O1, row by row. -/
theorem opcodeMapRows : Obligations.OpcodeMapRows :=
  ⟨decode_opHalt, decode_opPrintRegister, decode_opSetImmediate, decode_opMultiply,
    operandCount_opHalt, operandCount_opPrintRegister, operandCount_opSetImmediate, operandCount_opMultiply,
    width_opHalt, width_opPrintRegister, width_opSetImmediate, width_opMultiply,
    rfl, fun _ => rfl, fun _ _ => rfl, fun _ _ => rfl⟩

theorem encode_length (i : Instr) : (encode i).length = width i.opcode := by
  cases i with
  | halt => exact Laws.EncodingWidth.halt
  | printRegister a => exact Laws.EncodingWidth.printRegister a
  | setImmediate a b => exact Laws.EncodingWidth.setImmediate a b
  | multiply a b => exact Laws.EncodingWidth.multiply a b

/-- Settles O3: the top two bits of a byte are its quotient by 64. -/
theorem widthFromTopTwoBits : Obligations.WidthFromTopTwoBits := by
  refine ⟨fun ir => ⟨operandCount_eq ir, congrArg (· + 1) (operandCount_eq ir)⟩, fun ir a b i h => ?_⟩
  rw [encode_length, opcode_of_decode h]

end Sys2Proof

/-! The part of a step after its fetch reads no memory, and no latch but `ir`: its operands reach it through the
decoded instruction (R40, R47). -/

namespace Sys2Proof.Machine

/-- The state with other memory and other bytes in the two operand latches. -/
def State.withBytes (m : Memory) (a b : Byte) (s : State) : State := { s with mem := m, operandA := a, operandB := b }

/-- An outcome with its next state changed. -/
def mapNext (f : State → State) : StepOutcome → StepOutcome
  | .next t => .next (f t)
  | .fault r => .fault r
  | .refused r => .refused r

theorem withRegister_mapNext {c : Byte} {s : State} {k k' : RegIndex → StepOutcome} {m : Memory} {a b : Byte}
    (hk : ∀ r, k' r = mapNext (State.withBytes m a b) (k r)) :
    withRegister c (s.withBytes m a b) k' = mapNext (State.withBytes m a b) (withRegister c s k) := by
  obtain ⟨hc, -⟩ | ⟨hc, -⟩ := registerOperand?_cases c
  · rw [withRegister_of_lt hc, withRegister_of_lt hc, hk]
  · rw [withRegister_of_ge hc, withRegister_of_ge hc]
    rfl

/-- An instruction's meaning rests on the operands in the instruction, not on memory or the operand latches. -/
theorem exec_withBytes (i : Instr) (s : State) (m : Memory) (a b : Byte) :
    exec i (s.withBytes m a b) = mapNext (State.withBytes m a b) (exec i s) := by
  cases i with
  | halt => rfl
  | printRegister c => exact withRegister_mapNext fun _ => rfl
  | setImmediate c d => exact withRegister_mapNext fun _ => rfl
  | multiply c d => exact withRegister_mapNext fun _ => withRegister_mapNext fun _ => rfl

theorem execInvalid_withBytes (s : State) (m : Memory) (a b : Byte) :
    execInvalid (s.withBytes m a b) = mapNext (State.withBytes m a b) (execInvalid s) := by
  have hp : (s.withBytes m a b).params = s.params := rfl
  simp only [execInvalid, hp]
  cases s.params.invalidPolicy with
  | continueRun => rfl
  | fatal => rfl

/-- The decoder rests on the operand bytes its instruction uses (R47). -/
theorem decode_congr {ir a b a' b' : Byte} (ha : ir ∈ [0x47#8, 0x82#8, 0xA2#8] → a' = a)
    (hb : ir ∈ [0x82#8, 0xA2#8] → b' = b) : decode ir a' b' = decode ir a b := by
  obtain ⟨rfl, -⟩ | ⟨rfl, -⟩ | ⟨rfl, -⟩ | ⟨rfl, -⟩ | ⟨h, -⟩ := decode_cases ir a b
  · rfl
  · rw [decode_opPrintRegister, decode_opPrintRegister, ha (by decide)]
  · rw [ha (by decide), hb (by decide)]
  · rw [ha (by decide), hb (by decide)]
  · rw [decode_of_not_isOpcode h, decode_of_not_isOpcode h]

theorem dispatchFetched_of_ok {s : State} {i : Instr} (h : decode s.ir s.operandA s.operandB = .ok i) :
    dispatchFetched s = exec i s := by
  simp only [dispatchFetched, h]

theorem dispatchFetched_of_error {s : State} {r : DecodeReject} (h : decode s.ir s.operandA s.operandB = .error r) :
    dispatchFetched s = execInvalid s := by
  simp only [dispatchFetched, h]

theorem dispatchFetched_withBytes {s : State} {a b : Byte} (m : Memory)
    (ha : s.ir ∈ [0x47#8, 0x82#8, 0xA2#8] → a = s.operandA) (hb : s.ir ∈ [0x82#8, 0xA2#8] → b = s.operandB) :
    dispatchFetched (s.withBytes m a b) = mapNext (State.withBytes m a b) (dispatchFetched s) := by
  have hd : decode s.ir a b = decode s.ir s.operandA s.operandB := decode_congr ha hb
  cases hi : decode s.ir s.operandA s.operandB with
  | ok i =>
    rw [dispatchFetched_of_ok hi, dispatchFetched_of_ok (s := s.withBytes m a b) (hd.trans hi), exec_withBytes]
  | error r =>
    rw [dispatchFetched_of_error hi, dispatchFetched_of_error (s := s.withBytes m a b) (hd.trans hi),
      execInvalid_withBytes]

theorem step_of_inBounds {s : State} (hrun : s.isRunning = true)
    (hin : s.params.addrPolicy = .fault → s.pc.toNat ≤ 253) : step s = dispatchFetched s.fetched := by
  rw [step_of_running hrun, fetch_of_inBounds hin]

/-- The fetch from another memory whose opcode byte is the same. -/
theorem fetched_withMem {s : State} {m : Memory} (h : ({ s with mem := m } : State).byteAt 0 = s.byteAt 0) :
    ({ s with mem := m } : State).fetched =
      s.fetched.withBytes m (({ s with mem := m } : State).byteAt 1) (({ s with mem := m } : State).byteAt 2) := by
  simp only [State.fetched, State.withBytes, h]

/-- Settles O20: out of bounds no byte is read (R31); in bounds the two fetches differ in unused bytes alone. -/
theorem unusedBytesIgnored : Obligations.UnusedBytesIgnored := by
  intro s t u m h0 h1 h2 ht hu
  obtain ⟨hrun, hcase⟩ := step_cases ht
  have hrun' : ({ s with mem := m } : State).isRunning = true := hrun
  obtain ⟨hp, hpc, rfl⟩ | ⟨hin, -⟩ := hcase
  · rw [step_of_outOfBounds hrun' hp hpc] at hu
    cases hu
    rfl
  · rw [step_of_inBounds hrun hin] at ht
    rw [step_of_inBounds hrun' hin, fetched_withMem h0, dispatchFetched_withBytes m h1 h2, ht] at hu
    cases hu
    rfl

end Sys2Proof.Machine

/-! The program source: the form of an accepted line, and the lines of a text (R48, R49). -/

namespace Sys2Proof.Machine

/-- The value of a literal is that of its digits, the last one lowest (R49). -/
theorem binaryValue_eq_ofDigits (tok : List Char) :
    binaryValue tok = Nat.ofDigits 2 (tok.reverse.map fun c => if c = '1' then 1 else 0) := by
  simp only [binaryValue, Nat.ofDigits_eq_foldr, List.foldr_map, List.foldr_reverse, Nat.cast_id, Nat.add_comm]

theorem isBinaryLiteral_iff (tok : List Char) :
    isBinaryLiteral tok = true ↔ tok ≠ [] ∧ ∀ c ∈ tok, c = '0' ∨ c = '1' := by
  simp [isBinaryLiteral]

/-- A digit is neither whitespace nor the start of a comment. -/
theorem digit_not_space {c : Char} (h : c = '0' ∨ c = '1') : isSpace c = false ∧ c ≠ '#' := by
  obtain rfl | rfl := h <;> decide

theorem space_ne_hash {c : Char} (h : isSpace c = true) : c ≠ '#' := by
  rintro rfl
  exact absurd h (by decide)

/-- After a token comes no further character of it: whitespace, a comment or the end ends it (R48). -/
theorem takeWhile_tail_eq_nil {tail : List Char} (h : ∀ c ∈ tail.head?, isSpace c = true ∨ c = '#') :
    (tail.takeWhile (· != '#')).takeWhile (fun c => !isSpace c) = [] := by
  cases tail with
  | nil => rfl
  | cons c cs =>
    obtain hc | rfl := h c rfl
    · have hne : c ≠ '#' := space_ne_hash hc
      simp [hne, hc]
    · simp

/-- The leading token of a line of the accepted form is its token. -/
theorem leadingToken_of_form {ws tok tail : List Char} (hws : ∀ c ∈ ws, isSpace c = true) (hne : tok ≠ [])
    (htok : ∀ c ∈ tok, c = '0' ∨ c = '1') (htail : ∀ c ∈ tail.head?, isSpace c = true ∨ c = '#') :
    leadingToken (ws ++ tok ++ tail) = tok := by
  have hbody : ∀ c ∈ ws ++ tok, (c != '#') = true := by
    intro c hc
    obtain hc | hc := List.mem_append.mp hc
    · exact bne_iff_ne.mpr (space_ne_hash (hws c hc))
    · exact bne_iff_ne.mpr (digit_not_space (htok c hc)).2
  have hdigits : ∀ c ∈ tok, (!isSpace c) = true := fun c hc => by simp [digit_not_space (htok c hc)]
  have hstart : ∀ l, (tok ++ l).dropWhile isSpace = tok ++ l := by
    obtain ⟨d, ds, rfl⟩ := List.exists_cons_of_ne_nil hne
    exact fun l => List.dropWhile_cons_of_neg (by simp [digit_not_space (htok d (by simp))])
  rw [leadingToken, List.takeWhile_append_of_pos hbody, List.append_assoc, List.dropWhile_append_of_pos hws, hstart,
    List.takeWhile_append_of_pos hdigits, takeWhile_tail_eq_nil htail, List.append_nil]

/-- A list is the longest run of a kind that it starts with, and a rest that starts with another kind. -/
theorem exists_eq_takeWhile_append (p : Char → Bool) (l : List Char) :
    ∃ rest, l = l.takeWhile p ++ rest ∧ ∀ c ∈ rest.head?, p c = false := by
  refine ⟨l.dropWhile p, List.takeWhile_append_dropWhile.symm, fun c hc => ?_⟩
  have hnot := List.head?_dropWhile_not p l
  rwa [Option.mem_def.mp hc] at hnot

/-- Every line is whitespace, its leading token, and the end, whitespace or a comment (R48). -/
theorem exists_line_eq (line : List Char) :
    ∃ ws tail, line = ws ++ leadingToken line ++ tail ∧ (∀ c ∈ ws, isSpace c = true) ∧
      ∀ c ∈ tail.head?, isSpace c = true ∨ c = '#' := by
  obtain ⟨comment, hline, hcomment⟩ := exists_eq_takeWhile_append (· != '#') line
  obtain ⟨after, htext, hafter⟩ :=
    exists_eq_takeWhile_append (fun c => !isSpace c) ((line.takeWhile (· != '#')).dropWhile isSpace)
  refine ⟨(line.takeWhile (· != '#')).takeWhile isSpace, after ++ comment, ?_,
    fun c hc => List.mem_takeWhile_imp hc, fun c hc => ?_⟩
  · rw [leadingToken, List.append_assoc, ← List.append_assoc _ after, ← htext, ← List.append_assoc,
      List.takeWhile_append_dropWhile]
    exact hline
  · rw [List.head?_append, Option.mem_def, Option.or_eq_some_iff] at hc
    obtain hc | ⟨-, hc⟩ := hc
    · exact .inl (by simpa using hafter c hc)
    · exact .inr (by simpa using hcomment c hc)

/-- The model's lines are the library's split at line feeds. -/
theorem splitLines_eq_splitOn (cs : List Char) : splitLines cs = cs.splitOn '\n' := by
  induction cs with
  | nil => exact (List.splitOn_nil '\n').symm
  | cons c cs ih =>
    rw [splitLines, List.splitOn_cons_eq_if_modifyHead, ← ih]
    obtain ⟨l, ls, hl⟩ := List.exists_cons_of_ne_nil (ih ▸ List.splitOn_ne_nil '\n' cs)
    by_cases hc : c = '\n'
    · simp [hc]
    · simp [hc, hl]

/-- The parts of a split hold no separator. -/
theorem not_mem_of_mem_splitOn (sep : Char) (cs : List Char) : ∀ l ∈ cs.splitOn sep, sep ∉ l := by
  induction cs with
  | nil => simp
  | cons c cs ih =>
    obtain ⟨l, ls, hl⟩ := List.exists_cons_of_ne_nil (List.splitOn_ne_nil sep cs)
    rw [List.splitOn_cons_eq_if_modifyHead]
    by_cases hc : c = sep
    · simpa [hc] using ih
    · simpa [hc, Ne.symm hc, hl] using ih

/-- Settles O9: an accepted line's leading token is its literal, and a line whose leading token is a literal is of the
accepted form. -/
theorem lineGrammar : Obligations.LineGrammar := by
  refine ⟨fun ws tok tail hws hne htok htail => ?_, fun line hform => ?_, fun cs => ?_⟩
  · have hlit : isBinaryLiteral tok = true := (isBinaryLiteral_iff tok).mpr ⟨hne, htok⟩
    simp only [lineByte, leadingToken_of_form hws hne htok htail, hlit, ← binaryValue_eq_ofDigits, if_true]
    exact ⟨fun hlt => if_pos hlt, fun hge => ⟨_, if_neg (Nat.not_lt.mpr hge)⟩⟩
  · have hlit : isBinaryLiteral (leadingToken line) ≠ true := by
      intro h
      obtain ⟨hne, htok⟩ := (isBinaryLiteral_iff _).mp h
      obtain ⟨ws, tail, hline, hws, htail⟩ := exists_line_eq line
      exact hform ⟨ws, leadingToken line, tail, hline, hws, hne, htok, htail⟩
    exact if_neg hlit
  · rw [splitLines_eq_splitOn]
    exact ⟨List.splitOn_ne_nil '\n' cs, List.intercalate_splitOn '\n', not_mem_of_mem_splitOn '\n' cs⟩

end Sys2Proof.Machine

/-! The step: when there is one (R52), what its fetch leaves in the latches (R53), and the instruction it runs (R51). -/

namespace Sys2Proof.Machine

theorem fetchInBounds_iff (s : State) : fetchInBounds s ↔ (s.params.addrPolicy = .fault → s.pc.toNat ≤ 253) :=
  imp_congr_right fun _ => by omega

theorem not_fetchInBounds {s : State} (hp : s.params.addrPolicy = .fault) (hpc : 254 ≤ s.pc.toNat) :
    ¬ fetchInBounds s := by
  intro h
  have hlt : s.pc.toNat + 2 < 256 := h hp
  omega

/-- The address the fetch reports is the lowest of its three that is out of bounds (R18). -/
theorem ofNat_max_256_eq_outOfBoundsAddr (pc : PcWord) : BitVec.ofNat 9 (max 256 pc.toNat) = outOfBoundsAddr pc := by
  unfold outOfBoundsAddr
  split
  · next hlt => rw [max_eq_left hlt.le]
  · next hge => rw [max_eq_right (Nat.not_lt.mp hge), BitVec.ofNat_toNat, BitVec.setWidth_eq]

/-- Settles O12: a running engine has a next state, and only a running one. -/
theorem stepExistsExactlyWhileRunning : Obligations.StepExistsExactlyWhileRunning := by
  intro s
  rw [and_comm, ← s.isRunning_iff]
  constructor
  · rintro ⟨t, ht⟩
    exact (step_cases ht).1
  · intro hrun
    obtain ⟨t, ht, -⟩ := step_next_of_running hrun
    exact ⟨t, ht⟩

/-- Settles O13: `step` tells the three conditions of the engine (R23) apart, a fault before the halted flag. -/
theorem stoppedEngineNamed : Obligations.StoppedEngineNamed := by
  intro s
  constructor
  · intro hf
    have hc : s.condition = .faulted := if_pos hf
    simp only [step, hc]
  · intro hf hh
    have hc : s.condition = .halted := by simp [State.condition, hf, hh]
    simp only [step, hc]

/-- Settles O14: the fetch in bounds leaves the dispatch of the three bytes (R53). -/
theorem stepRunsDecodedInstruction : Obligations.StepRunsDecodedInstruction := by
  intro s hh hf hin
  rw [step_of_inBounds (s.isRunning_iff.mpr ⟨hf, hh⟩) ((fetchInBounds_iff s).mp hin)]
  exact ⟨fun i hd => dispatchFetched_of_ok hd, fun r hd => dispatchFetched_of_error hd⟩

/-- No arm of the dispatch writes a latch. -/
theorem ArmCase.latches_eq {s t : State} (h : ArmCase s t) :
    t.ir = s.ir ∧ t.operandA = s.operandA ∧ t.operandB = s.operandB := by
  cases h with
  | halt _ eq | print _ _ eq | setImm _ _ eq | mul _ _ _ eq | badA _ _ eq | badB _ _ _ eq | skipped _ _ eq
  | fatal _ _ eq => simp [eq]

/-- Settles O17: no arm writes the latches that the fetch loaded, and a fetch out of bounds is the whole step. -/
theorem fetchLoadsLatches : Obligations.FetchLoadsLatches := by
  intro s t ht
  obtain ⟨-, ⟨hp, hpc, rfl⟩ | ⟨hin, harm⟩⟩ := step_cases ht
  · refine ⟨fun h => absurd h (not_fetchInBounds hp hpc), fun _ => ?_⟩
    rw [ofNat_max_256_eq_outOfBoundsAddr]
    rfl
  · exact ⟨fun _ => harm.latches_eq, fun h => absurd ((fetchInBounds_iff s).mpr hin) h⟩

end Sys2Proof.Machine

/-! The advance of a step (R57) and the bounds on its effects (R55). -/

namespace Sys2Proof.Machine

/-- An arm completes and moves `pc` past its instruction, or raises a fault and leaves `pc` there (R57). -/
theorem ArmCase.pc_cases {s t : State} (h : ArmCase s t) :
    (t.fault = s.fault ∧ t.pc = nextPc s.params.addrPolicy s.pc (width s.ir)) ∨ (t.fault ≠ .none ∧ t.pc = s.pc) := by
  cases h with
  | halt op eq | print op _ eq | setImm op _ eq | mul op _ _ eq => exact .inl (by simp [eq, op])
  | skipped _ _ eq => exact .inl (by simp [eq])
  | badA _ _ eq | badB _ _ _ eq | fatal _ _ eq => exact .inr (by simp [eq])

/-- A step completes, from a fetch in bounds, and moves `pc` past its instruction, or raises a fault and leaves `pc`
there (R31, R57). -/
theorem step_pc_cases {s t : State} (h : step s = .next t) :
    (t.fault = .none ∧ (s.params.addrPolicy = .fault → s.pc.toNat ≤ 253) ∧
      t.pc = nextPc s.params.addrPolicy s.pc (width (s.byteAt 0))) ∨
    (t.fault ≠ .none ∧ t.pc = s.pc) := by
  obtain ⟨hrun, hcase⟩ := step_cases h
  obtain ⟨hf, -⟩ := s.isRunning_iff.mp hrun
  obtain ⟨-, -, rfl⟩ | ⟨hin, harm⟩ := hcase
  · exact .inr ⟨by simp, rfl⟩
  · obtain ⟨hft, hpc⟩ | hraise := harm.pc_cases
    · exact .inl ⟨hft.trans hf, hin, hpc⟩
    · exact .inr hraise

theorem step_pc_of_fault_ne_none {s t : State} (h : step s = .next t) (hf : t.fault ≠ .none) : t.pc = s.pc := by
  obtain ⟨hnone, -⟩ | ⟨-, hpc⟩ := step_pc_cases h
  · exact absurd hnone hf
  · exact hpc

/-- A completed step under FAULT: its fetch was in bounds, and the sum is kept whole. -/
theorem step_pc_of_completes_fault {s t : State} (h : step s = .next t) (hf : t.fault = .none)
    (hp : s.params.addrPolicy = .fault) :
    s.pc.toNat ≤ 253 ∧ t.pc.toNat = s.pc.toNat + width (s.byteAt 0) := by
  obtain ⟨-, hin, hpc⟩ | ⟨hraise, -⟩ := step_pc_cases h
  · have hle : s.pc.toNat ≤ 253 := hin hp
    have hw : width (s.byteAt 0) ≤ 4 := width_le _
    rw [hpc, hp, nextPc_fault (by omega)]
    exact ⟨hle, rfl⟩
  · exact absurd hf hraise

/-- A completed step under WRAP: the sum is taken mod 256. -/
theorem step_pc_of_completes_wrap {s t : State} (h : step s = .next t) (hf : t.fault = .none)
    (hp : s.params.addrPolicy = .wrap) : t.pc.toNat = (s.pc.toNat + width (s.byteAt 0)) % 256 := by
  obtain ⟨-, -, hpc⟩ | ⟨hraise, -⟩ := step_pc_cases h
  · rw [hpc, hp, nextPc_wrap]
  · exact absurd hf hraise

theorem step_fault_of_outOfBounds {s t : State} (h : step s = .next t) (hp : s.params.addrPolicy = .fault)
    (hpc : 254 ≤ s.pc.toNat) : t.fault = .outOfBounds := by
  rw [step_of_outOfBounds (step_cases h).1 hp hpc] at h
  cases h
  rfl

/-- Settles O18: a step completes or raises, and the next fetch is checked against the same policy. -/
theorem advanceByWidth : Obligations.AdvanceByWidth := by
  intro s t ht
  refine ⟨fun hf hp => (step_pc_of_completes_fault ht hf hp).2, fun hf hp => step_pc_of_completes_wrap ht hf hp,
    fun hf => step_pc_of_fault_ne_none ht hf, fun u hp hpc hu => ?_⟩
  have hp' : t.params.addrPolicy = .fault := by rw [step_params ht, hp]
  exact step_fault_of_outOfBounds hu hp' (by omega)

/-- No arm of the dispatch writes memory (R25). -/
theorem ArmCase.mem_eq {s t : State} (h : ArmCase s t) : t.mem = s.mem := by
  cases h with
  | halt _ eq | print _ _ eq | setImm _ _ eq | mul _ _ _ eq | badA _ _ eq | badB _ _ _ eq | skipped _ _ eq
  | fatal _ _ eq => simp [eq]

/-- The registers across the dispatch: SET-IMMEDIATE and MULTIPLY write one, no other arm writes any. -/
theorem ArmCase.x_cases {s t : State} (h : ArmCase s t) :
    t.x = s.x ∨ ∃ (r : RegIndex) (v : Byte), t.x = s.x.set r.val v := by
  cases h with
  | halt _ eq | print _ _ eq | badA _ _ eq | badB _ _ _ eq | skipped _ _ eq | fatal _ _ eq =>
    exact .inl (by simp [eq])
  | setImm _ _ eq | mul _ _ _ eq => exact .inr ⟨_, _, by rw [eq, State.advance_x, State.writeReg_x]⟩

/-- The halted flag across the dispatch: HALT alone writes it (R17). -/
theorem ArmCase.halted_cases {s t : State} (h : ArmCase s t) : t.halted = s.halted ∨ s.ir = opHalt := by
  cases h with
  | halt op _ => exact .inr op
  | print _ _ eq | setImm _ _ eq | mul _ _ _ eq | badA _ _ eq | badB _ _ _ eq | skipped _ _ eq | fatal _ _ eq =>
    exact .inl (by simp [eq])

theorem step_mem {s t : State} (h : step s = .next t) : t.mem = s.mem := by
  obtain ⟨-, ⟨-, -, rfl⟩ | ⟨-, harm⟩⟩ := step_cases h
  · exact State.recordFault_mem ..
  · exact harm.mem_eq

theorem step_x_cases {s t : State} (h : step s = .next t) :
    t.x = s.x ∨ ∃ (r : RegIndex) (v : Byte), t.x = s.x.set r.val v := by
  obtain ⟨-, ⟨-, -, rfl⟩ | ⟨-, harm⟩⟩ := step_cases h
  · exact .inl (State.recordFault_x ..)
  · exact harm.x_cases

theorem step_halted_cases {s t : State} (h : step s = .next t) : t.halted = s.halted ∨ s.byteAt 0 = opHalt := by
  obtain ⟨-, ⟨-, -, rfl⟩ | ⟨-, harm⟩⟩ := step_cases h
  · exact .inl (State.recordFault_halted ..)
  · exact harm.halted_cases

/-- Settles O19: effect by effect, through the fetch fault (R31), or through the fetch and the dispatch. -/
theorem stepEffectsBounded : Obligations.StepEffectsBounded := by
  intro s t ht
  refine ⟨?_, step_out_cases ht, fun a => by rw [step_mem ht], step_mem ht,
    fun hne => (step_halted_cases ht).resolve_left hne⟩
  obtain hx | ⟨r, v, hx⟩ := step_x_cases ht
  · exact ⟨0, 0#8, .inl hx⟩
  · exact ⟨r, v, .inr hx⟩

/-- Settles O31: `check_reg` comes before everything else an instruction does, for `operand_a` first (R51). -/
theorem registerIndexCheck : Obligations.RegisterIndexCheck := by
  intro a b s
  refine ⟨fun ha => ⟨?_, ?_, ?_⟩, fun ha hb => ?_, fun ha => ⟨?_, ?_⟩, ?_⟩
  · exact withRegister_of_ge ha s _
  · exact withRegister_of_ge ha s _
  · exact withRegister_of_ge ha s _
  · exact (withRegister_of_lt ha s _).trans (withRegister_of_ge hb s _)
  · exact ⟨_, withRegister_of_lt ha s _, rfl⟩
  · exact ⟨_, withRegister_of_lt ha s _, rfl⟩
  · exact ⟨_, rfl, rfl⟩

end Sys2Proof.Machine

/-! A table word placed for the next step (log entry 10): its fetch is in bounds and reads the three bytes placed. -/

namespace Sys2Proof.Machine

theorem placePc_inBounds (s : State) (hp : s.params.addrPolicy = .fault) : (placePc s).toNat ≤ 253 := by
  unfold placePc
  cases ha : fetchAddresses s.params.addrPolicy s.pc with
  | error bad => exact Nat.zero_le 253
  | ok cells =>
    obtain ⟨-, -, hf⟩ | ⟨hin, -⟩ := fetch_cases s
    · simp only [fetch, ha] at hf
      cases hf
    · exact hin hp

theorem placeBytes_fetchInBounds (s : State) (b0 b1 b2 : Byte) : fetchInBounds (s.placeBytes b0 b1 b2) :=
  (fetchInBounds_iff _).mpr (placePc_inBounds s)

/-- The three addresses of a fetch are different cells, also where they wrap. -/
theorem ofNat_add_inj {n j k : Nat} (hj : j < 3) (hk : k < 3) :
    BitVec.ofNat 8 (n + j) = BitVec.ofNat 8 (n + k) ↔ j = k := by
  rw [← BitVec.toNat_inj, BitVec.toNat_ofNat, BitVec.toNat_ofNat]
  omega

theorem byteAt_placeBytes {s : State} (hm : s.mem.wf = true) (b0 b1 b2 : Byte) {k : Nat} (hk : k < 3) :
    (s.placeBytes b0 b1 b2).byteAt k = if 2 = k then b2 else if 1 = k then b1 else b0 := by
  have h0 : ∀ v, (s.mem.write (BitVec.ofNat 8 ((placePc s).toNat + 0)) v).wf = true := Memory.write_wf hm _
  simp only [State.byteAt, State.placeBytes_mem, State.placeBytes_pc, ofNat_mod_256]
  rw [Memory.read_write (Memory.write_wf (h0 _) _ _), Memory.read_write (h0 _), Memory.read_write hm]
  simp only [ofNat_add_inj (show 0 < 3 by decide) hk, ofNat_add_inj (show 1 < 3 by decide) hk,
    ofNat_add_inj (show 2 < 3 by decide) hk]
  split
  · rfl
  · split
    · rfl
    · exact if_pos (by omega)

theorem decode_of_decodeTableWord {nbits w : Nat} {i : Instr} (h : decodeTableWord nbits w = some i) :
    decode (tableBytes nbits w).1 (tableBytes nbits w).2.1 (tableBytes nbits w).2.2 = .ok i := by
  unfold decodeTableWord at h
  split at h
  · next j hd => rw [hd, Option.some.inj h]
  · cases h

/-- Settles O52: the next step runs what the three bytes placed decode to (O14). -/
theorem fetchWordRuns : Obligations.FetchWordRuns := by
  intro s nbits w i hm h
  refine (stepRunsDecodedInstruction (s.withFetchWord nbits w) rfl rfl (placeBytes_fetchInBounds s _ _ _)).1 i ?_
  simp only [State.withFetchWord, byteAt_placeBytes hm _ _ _ (show 0 < 3 by decide),
    byteAt_placeBytes hm _ _ _ (show 1 < 3 by decide), byteAt_placeBytes hm _ _ _ (show 2 < 3 by decide)]
  exact decode_of_decodeTableWord h

end Sys2Proof.Machine

/-! Runs (R59): the last step of a run, and what a run keeps. -/

namespace Sys2Proof.Machine

/-- A run of `n + 1` steps is a run of `n` steps and one more. -/
theorem runFor_succ_last (n : Nat) (s : State) : runFor (n + 1) s = runFor 1 (runFor n s) := by
  induction n generalizing s with
  | zero => rfl
  | succ n ih =>
    cases hs : step s with
    | next t =>
      have hrun : ∀ m, runFor (m + 1) s = runFor m t := fun m => by simp only [runFor, hs]
      rw [hrun, hrun, ih]
    | fault _ | refused _ =>
      have hrun : ∀ m, runFor (m + 1) s = s := fun m => by simp only [runFor, hs]
      rw [hrun, hrun, hrun]

theorem runFor_succ_of_step {n : Nat} {s t : State} (h : step (runFor n s) = .next t) : runFor (n + 1) s = t := by
  rw [runFor_succ_last]
  simp only [runFor, h]

/-- A run still running at a step has made that step. -/
theorem step_runFor {n : Nat} {s : State} (h : (runFor n s).isRunning = true) :
    step (runFor n s) = .next (runFor (n + 1) s) := by
  obtain ⟨t, ht, -⟩ := step_next_of_running h
  rw [ht, runFor_succ_of_step ht]

theorem runFor_succ_of_not_running {n : Nat} {s : State} (h : (runFor n s).isRunning = false) :
    runFor (n + 1) s = runFor n s := by
  rw [runFor_succ_last]
  obtain ⟨t, ht, -⟩ | hend := runFor_succ_cases 0 (runFor n s)
  · exact absurd ht (step_of_not_running h)
  · exact hend

theorem isRunning_of_isRunning_succ {n : Nat} {s : State} (h : (runFor (n + 1) s).isRunning = true) :
    (runFor n s).isRunning = true := by
  by_contra hend
  rw [runFor_succ_of_not_running (Bool.eq_false_iff.mpr hend)] at h
  exact hend h

/-- No step writes memory, so no run does (R25). -/
theorem runFor_mem (n : Nat) (s : State) : (runFor n s).mem = s.mem :=
  runFor_keeps (P := fun u => u.mem = s.mem) (fun _ _ hu ht => (step_mem ht).trans hu) n s rfl

theorem fault_of_isRunning {s : State} (h : s.isRunning = true) : s.fault = .none := (s.isRunning_iff.mp h).1

end Sys2Proof.Machine

/-! Under FAULT every run ends (R60): each completed step moves `pc` up, and a fetch is in bounds up to 253. -/

namespace Sys2Proof.Machine

theorem runFor_addrPolicy (n : Nat) {s : State} {p : AddrPolicy} (hp : s.params.addrPolicy = p) :
    (runFor n s).params.addrPolicy = p := by
  rw [parametersFixed n s, hp]

/-- While a run is running, each of its steps has moved `pc` up by 1 at least. -/
theorem add_le_pc_runFor {n : Nat} {s : State} (hp : s.params.addrPolicy = .fault)
    (h : (runFor n s).isRunning = true) : s.pc.toNat + n ≤ (runFor n s).pc.toNat := by
  induction n with
  | zero => exact Nat.le_refl _
  | succ n ih =>
    have hrun : (runFor n s).isRunning = true := isRunning_of_isRunning_succ h
    have hle : s.pc.toNat + n ≤ (runFor n s).pc.toNat := ih hrun
    have hpos : 1 ≤ width ((runFor n s).byteAt 0) := width_pos _
    obtain ⟨-, hpc⟩ := step_pc_of_completes_fault (step_runFor hrun) (fault_of_isRunning h) (runFor_addrPolicy n hp)
    omega

/-- A step of a run that completes is the 254th at the latest. -/
theorem completed_steps_le {n : Nat} {s t : State} (hp : s.params.addrPolicy = .fault)
    (hrun : (runFor n s).isRunning = true) (ht : step (runFor n s) = .next t) (hf : t.fault = .none) :
    s.pc.toNat + n + 1 ≤ 254 := by
  have hge : s.pc.toNat + n ≤ (runFor n s).pc.toNat := add_le_pc_runFor hp hrun
  obtain ⟨hle, -⟩ := step_pc_of_completes_fault ht hf (runFor_addrPolicy n hp)
  omega

theorem runFor_255_not_running {s : State} (hp : s.params.addrPolicy = .fault) :
    (runFor 255 s).isRunning = false := by
  by_contra h
  rw [Bool.not_eq_false] at h
  have hrun : (runFor 254 s).isRunning = true := isRunning_of_isRunning_succ h
  have hle : s.pc.toNat + 254 + 1 ≤ 254 := completed_steps_le hp hrun (step_runFor hrun) (fault_of_isRunning h)
  omega

/-- One step under FAULT keeps `pc` in 0 to 257: it completes from 253 or below, by 4 at most, or leaves `pc`. -/
theorem step_pc_le_257 {s t : State} (hp : s.params.addrPolicy = .fault) (hpc : s.pc.toNat ≤ 257)
    (ht : step s = .next t) : t.pc.toNat ≤ 257 := by
  by_cases hf : t.fault = .none
  · obtain ⟨hle, hsum⟩ := step_pc_of_completes_fault ht hf hp
    have hw : width (s.byteAt 0) ≤ 4 := width_le _
    omega
  · rwa [step_pc_of_fault_ne_none ht hf]

theorem runFor_pc_le_257 (n : Nat) {s : State} (hp : s.params.addrPolicy = .fault) (hpc : s.pc.toNat ≤ 257) :
    (runFor n s).pc.toNat ≤ 257 := by
  have hkeep : ∀ u t : State, (u.params.addrPolicy = .fault ∧ u.pc.toNat ≤ 257) → step u = .next t →
      t.params.addrPolicy = .fault ∧ t.pc.toNat ≤ 257 := fun u t hu ht =>
    ⟨by rw [step_params ht, hu.1], step_pc_le_257 hu.1 hu.2 ht⟩
  exact (runFor_keeps hkeep n s ⟨hp, hpc⟩).2

theorem condition_of_not_running {s : State} (h : s.isRunning = false) :
    s.condition = .halted ∨ s.condition = .faulted := by
  cases hc : s.condition with
  | running => simp [State.isRunning, hc] at h
  | halted => exact .inl rfl
  | faulted => exact .inr rfl

/-- Settles O45: `pc` bounds the number of completed steps. -/
theorem runEndsUnderFault : Obligations.RunEndsUnderFault := by
  intro s hp hpc
  refine ⟨fun t ht hf => ⟨(step_pc_of_completes_fault ht hf hp).2, width_pos _, width_le _⟩,
    fun t ht hge => step_fault_of_outOfBounds ht hp hge, fun n t hrun ht hf => completed_steps_le hp hrun ht hf,
    runFor_255_not_running hp, ?_, fun n => runFor_pc_le_257 n hp hpc⟩
  obtain hc | hc := condition_of_not_running (runFor_255_not_running hp)
  · exact .inl ⟨255, hc⟩
  · exact .inr ⟨255, hc⟩

end Sys2Proof.Machine

/-! Under WRAP a run can go on for ever (R61): one that does, and the period of every one. -/

namespace Sys2Proof.Machine

/-- The step at a byte that is no instruction, under CONTINUE, its fetch in bounds (R73). -/
theorem step_of_invalid_continue {s : State} (hrun : s.isRunning = true)
    (hin : s.params.addrPolicy = .fault → s.pc.toNat ≤ 253) (hp : s.params.invalidPolicy = .continueRun)
    (hop : isOpcode (s.byteAt 0) = false) :
    step s = .next ((s.fetched.emit (.invalid s.pc (s.byteAt 0))).advance (width (s.byteAt 0))) := by
  have hd : decode s.fetched.ir s.fetched.operandA s.fetched.operandB = .error (.invalidOpcode (s.byteAt 0)) :=
    decode_of_not_isOpcode hop _ _
  rw [step_of_inBounds hrun hin, dispatchFetched_of_error hd]
  simp only [execInvalid, State.fetched_params, hp]
  rfl

/-- Settles O46: memory and parameters stay, so every step is that of the invalid byte 0. -/
theorem zeroMemoryDivergesUnderWrap : Obligations.ZeroMemoryDivergesUnderWrap := by
  intro s hh hf hp hzero n
  induction n with
  | zero => exact ⟨s.isRunning_iff.mpr ⟨hf, hh⟩, rfl⟩
  | succ n ih =>
    obtain ⟨hrun, hlen⟩ := ih
    have hpn : (runFor n s).params = { addrPolicy := .wrap, invalidPolicy := .continueRun } :=
      (parametersFixed n s).trans hp
    have hbyte : (runFor n s).byteAt 0 = 0#8 := by rw [State.byteAt, runFor_mem, hzero]
    have hstep := step_of_invalid_continue hrun (by simp [hpn]) (by rw [hpn]) (by rw [hbyte]; decide)
    rw [runFor_succ_of_step hstep]
    refine ⟨?_, by simp [hlen, Nat.add_assoc]⟩
    rw [State.isRunning_iff] at hrun ⊢
    exact hrun

/-- A sequence in which each term is a function of the one before, and all from the first on are below `b`, is periodic
from some term on: two of `b + 1` terms are equal. -/
theorem exists_period {u : Nat → Nat} {f : Nat → Nat} {b : Nat} (hsucc : ∀ n, u (n + 1) = f (u n))
    (hlt : ∀ n, u (n + 1) < b) :
    ∃ start period, 1 ≤ period ∧ period ≤ b ∧ ∀ n, start ≤ n → u (n + period) = u n := by
  have hmaps : ∀ n ∈ Finset.range (b + 1), u (n + 1) ∈ Finset.range b := fun n _ => Finset.mem_range.mpr (hlt n)
  obtain ⟨i, hi, j, hj, hne, heq⟩ := Finset.exists_ne_map_eq_of_card_lt_of_maps_to (by simp) hmaps
  rw [Finset.mem_range] at hi hj
  wlog hij : i < j generalizing i j
  · exact this j hj i hi hne.symm heq.symm (by omega)
  refine ⟨i + 1, j - i, by omega, by omega, fun n hn => ?_⟩
  induction n, hn using Nat.le_induction with
  | base => rw [heq, show i + 1 + (j - i) = j + 1 by omega]
  | succ n _ ih => rw [Nat.add_right_comm, hsucc, hsucc n, ih]

/-- The `pc` after a completed step under WRAP, over a given memory. -/
def wrapSucc (m : Memory) (pc : Nat) : Nat := (pc + width (m.read (BitVec.ofNat 8 pc))) % 256

theorem wrapSucc_lt (m : Memory) (pc : Nat) : wrapSucc m pc < 256 := Nat.mod_lt _ (by decide)

/-- Along a run under WRAP that never ends, each `pc` is a function of the one before. -/
theorem runFor_pc_succ {s : State} (hp : s.params.addrPolicy = .wrap) (h : ∀ n, (runFor n s).isRunning = true)
    (n : Nat) : (runFor (n + 1) s).pc.toNat = wrapSucc s.mem (runFor n s).pc.toNat := by
  have hpc := step_pc_of_completes_wrap (step_runFor (h n)) (fault_of_isRunning (h (n + 1))) (runFor_addrPolicy n hp)
  rwa [State.byteAt, runFor_mem] at hpc

/-- Settles O47: under FAULT no run goes on for ever (O45), and under WRAP `pc` takes 256 values after a step. -/
theorem endlessRunIsPeriodic : Obligations.EndlessRunIsPeriodic := by
  intro s h
  cases hp : s.params.addrPolicy with
  | fault => exact absurd (h 255) (Bool.eq_false_iff.mp (runFor_255_not_running hp))
  | wrap =>
    obtain ⟨start, period, hpos, hle, hper⟩ :=
      exists_period (u := fun n => (runFor n s).pc.toNat) (runFor_pc_succ hp h) (b := 256)
        fun n => (runFor_pc_succ hp h n).trans_lt (wrapSucc_lt _ _)
    exact ⟨start, period, hpos, hle, fun n hn => BitVec.eq_of_toNat_eq (hper n hn)⟩

end Sys2Proof.Machine

/-! HALT (R62): its meaning and its step; and the frame of the two instructions that write no register. -/

namespace Sys2Proof.Machine

theorem exec_halt (s : State) : exec .halt s = .next (s.setHalted.advance 1) := by
  rw [← width_opHalt]
  rfl

theorem exec_printRegister_of_lt {a : Byte} (ha : a.toNat < 8) (s : State) :
    exec (.printRegister a) s = .next ((s.emit (.print (s.readReg ⟨a.toNat, ha⟩))).advance 2) := by
  rw [← width_opPrintRegister]
  exact withRegister_of_lt ha s _

theorem exec_printRegister_of_ge {a : Byte} (ha : 8 ≤ a.toNat) (s : State) :
    exec (.printRegister a) s = .next (s.recordFault .badRegister (a.setWidth 9)) :=
  withRegister_of_ge ha s _

theorem wellFormed_printRegister (a : Byte) : (Instr.printRegister a).wellFormed = true ↔ a.toNat < 8 :=
  decide_eq_true_iff

/-- The fetch fault of a running engine, in the words of the obligations (R31). -/
theorem step_of_not_fetchInBounds {s : State} (hh : s.halted = false) (hf : s.fault = .none)
    (hout : ¬ fetchInBounds s) :
    step s = .next (s.recordFault .outOfBounds (outOfBoundsAddr s.pc)) := by
  have hrun : s.isRunning = true := s.isRunning_iff.mpr ⟨hf, hh⟩
  obtain ⟨hp, hpc⟩ : s.params.addrPolicy = .fault ∧ ¬ s.pc.toNat ≤ 253 := by
    rwa [fetchInBounds_iff, Classical.not_imp] at hout
  rw [step_of_outOfBounds hrun hp (Nat.lt_of_not_le hpc), ofNat_max_256_eq_outOfBoundsAddr]

/-- Settles O27: the width of HALT's opcode byte is 1 (R39). -/
theorem haltCompletes : Obligations.HaltCompletes :=
  exec_halt

/-- Settles O21: HALT's byte decodes whatever the two after it are (R47), so in bounds the step is HALT's meaning. -/
theorem haltStep : Obligations.HaltStep := by
  refine ⟨rfl, fun s hh hf hop => ⟨fun hin => ?_, step_of_not_fetchInBounds hh hf⟩⟩
  have hd : decode (s.byteAt 0) (s.byteAt 1) (s.byteAt 2) = .ok .halt := hop ▸ decode_opHalt _ _
  obtain ⟨hexec, -⟩ := stepRunsDecodedInstruction s hh hf hin
  calc step s = exec .halt s.fetched := hexec _ hd
    _ = .next (s.fetched.setHalted.advance 1) := exec_halt _

/-- Settles O33: HALT sets the flag, PRINT-REGISTER emits the register its operand names or raises BAD_REGISTER. -/
theorem noRegisterWriteFrame : Obligations.NoRegisterWriteFrame := by
  rintro a i s t (rfl | rfl) ht
  · rw [exec_halt] at ht
    cases ht
    simp [Instr.wellFormed]
  · obtain ha | ha := Nat.lt_or_ge a.toNat 8
    · have hwf : (Instr.printRegister a).wellFormed = true := (wellFormed_printRegister a).mpr ha
      rw [exec_printRegister_of_lt ha] at ht
      cases ht
      simp [hwf]
    · have hwf : (Instr.printRegister a).wellFormed = false := by
        rwa [← Bool.not_eq_true, wellFormed_printRegister, Nat.not_lt]
      rw [exec_printRegister_of_ge ha] at ht
      cases ht
      simp [hwf]

end Sys2Proof.Machine

/-! SET-IMMEDIATE (R63): its meaning and its step; and the frame of the two instructions that write a register. -/

namespace Sys2Proof.Machine

theorem exec_setImmediate_of_lt {a : Byte} (ha : a.toNat < 8) (b : Byte) (s : State) :
    exec (.setImmediate a b) s = .next ((s.writeReg ⟨a.toNat, ha⟩ b).advance 3) := by
  rw [← width_opSetImmediate]
  exact withRegister_of_lt ha s _

theorem exec_setImmediate_of_ge {a : Byte} (ha : 8 ≤ a.toNat) (b : Byte) (s : State) :
    exec (.setImmediate a b) s = .next (s.recordFault .badRegister (a.setWidth 9)) :=
  withRegister_of_ge ha s _

theorem exec_multiply_of_lt {a b : Byte} (ha : a.toNat < 8) (hb : b.toNat < 8) (s : State) :
    exec (.multiply a b) s =
      .next ((s.writeReg ⟨a.toNat, ha⟩ (s.readReg ⟨a.toNat, ha⟩ * s.readReg ⟨b.toNat, hb⟩)).advance 3) := by
  rw [← aluInstruction_mul, ← width_opMultiply]
  exact (withRegister_of_lt ha s _).trans (withRegister_of_lt hb s _)

theorem exec_multiply_of_ge_left {a : Byte} (ha : 8 ≤ a.toNat) (b : Byte) (s : State) :
    exec (.multiply a b) s = .next (s.recordFault .badRegister (a.setWidth 9)) :=
  withRegister_of_ge ha s _

theorem exec_multiply_of_ge_right {a b : Byte} (ha : a.toNat < 8) (hb : 8 ≤ b.toNat) (s : State) :
    exec (.multiply a b) s = .next (s.recordFault .badRegister (b.setWidth 9)) :=
  (withRegister_of_lt ha s _).trans (withRegister_of_ge hb s _)

theorem wellFormed_setImmediate (a b : Byte) : (Instr.setImmediate a b).wellFormed = decide (a.toNat < 8) :=
  rfl

theorem wellFormed_multiply (a b : Byte) :
    (Instr.multiply a b).wellFormed = (decide (a.toNat < 8) && decide (b.toNat < 8)) :=
  rfl

/-- What the two instructions that write a register can answer: the write into the register `operand_a` names and the
advance, where their register operands name registers, and BAD_REGISTER where one does not (R56, R63, R70). -/
theorem exec_registerWriter_cases {a b : Byte} {i : Instr} {s t : State}
    (hi : i = .setImmediate a b ∨ i = .multiply a b) (h : exec i s = .next t) :
    (i.wellFormed = true ∧ ∃ (ha : a.toNat < 8) (v : Byte), t = (s.writeReg ⟨a.toNat, ha⟩ v).advance 3) ∨
    (i.wellFormed = false ∧ ∃ info : PcWord, t = s.recordFault .badRegister info) := by
  obtain rfl | rfl := hi
  · rw [wellFormed_setImmediate]
    obtain ha | ha := Nat.lt_or_ge a.toNat 8
    · rw [exec_setImmediate_of_lt ha] at h
      cases h
      exact .inl ⟨by simp [ha], ha, _, rfl⟩
    · rw [exec_setImmediate_of_ge ha] at h
      cases h
      exact .inr ⟨by simp [ha], _, rfl⟩
  · rw [wellFormed_multiply]
    obtain ha | ha := Nat.lt_or_ge a.toNat 8
    · obtain hb | hb := Nat.lt_or_ge b.toNat 8
      · rw [exec_multiply_of_lt ha hb] at h
        cases h
        exact .inl ⟨by simp [ha, hb], ha, _, rfl⟩
      · rw [exec_multiply_of_ge_right ha hb] at h
        cases h
        exact .inr ⟨by simp [hb], _, rfl⟩
    · rw [exec_multiply_of_ge_left ha] at h
      cases h
      exact .inr ⟨by simp [ha], _, rfl⟩

/-- Settles O28: the width of SET-IMMEDIATE's opcode byte is 3 (R39), and the immediate is the operand byte (R41). -/
theorem setImmediateCompletes : Obligations.SetImmediateCompletes := by
  rintro a b ⟨_, hlt⟩ s rfl
  exact exec_setImmediate_of_lt hlt b s

/-- Settles O22: in bounds the step is SET-IMMEDIATE's meaning with the two operand bytes fetched (R53). -/
theorem setImmediateStep : Obligations.SetImmediateStep := by
  refine ⟨fun _ _ => rfl, fun s hh hf hop => ?_⟩
  have hd : decode (s.byteAt 0) (s.byteAt 1) (s.byteAt 2) = .ok (.setImmediate (s.byteAt 1) (s.byteAt 2)) :=
    hop ▸ decode_opSetImmediate _ _
  have hexec : fetchInBounds s → step s = exec (.setImmediate (s.byteAt 1) (s.byteAt 2)) s.fetched := fun hin =>
    (stepRunsDecodedInstruction s hh hf hin).1 _ hd
  refine ⟨fun ra hin hra => ?_, fun hin ha => ?_, step_of_not_fetchInBounds hh hf⟩
  · exact (hexec hin).trans (setImmediateCompletes _ _ ra _ hra)
  · exact (hexec hin).trans (exec_setImmediate_of_ge ha _ _)

/-- Settles O32: neither the one register write and the advance nor the two writes of BAD_REGISTER reach the rest. -/
theorem registerWriteFrame : Obligations.RegisterWriteFrame := by
  intro a b i s t hi ht
  obtain ⟨hwf, ha, v, rfl⟩ | ⟨hwf, info, rfl⟩ := exec_registerWriter_cases hi ht
  · have hread : ∀ r : RegIndex, r.val ≠ a.toNat → (s.writeReg ⟨a.toNat, ha⟩ v).readReg r = s.readReg r :=
      fun r hr => by rw [State.readReg_writeReg, if_neg fun he => hr (congrArg Fin.val he).symm]
    simpa [hwf] using hread
  · simp [hwf]

end Sys2Proof.Machine


/-! PRINT-REGISTER (R64): its meaning, its step and the digits of a printed value (R65). -/

namespace Sys2Proof.Machine

/-- Settles O29: the width of PRINT-REGISTER's opcode byte is 2 (R39). -/
theorem printRegisterCompletes : Obligations.PrintRegisterCompletes := by
  rintro a ⟨_, hlt⟩ s rfl
  exact exec_printRegister_of_lt hlt s

/-- Settles O23: in bounds the step is PRINT-REGISTER's meaning with the first operand byte fetched (R53), whatever the
second one is (R47). -/
theorem printRegisterStep : Obligations.PrintRegisterStep := by
  refine ⟨fun _ => rfl, fun s hh hf hop => ?_⟩
  have hd : decode (s.byteAt 0) (s.byteAt 1) (s.byteAt 2) = .ok (.printRegister (s.byteAt 1)) :=
    hop ▸ decode_opPrintRegister _ _
  have hexec : fetchInBounds s → step s = exec (.printRegister (s.byteAt 1)) s.fetched := fun hin =>
    (stepRunsDecodedInstruction s hh hf hin).1 _ hd
  refine ⟨fun ra hin hra => ?_, fun hin ha => ?_, step_of_not_fetchInBounds hh hf⟩
  · exact (hexec hin).trans (printRegisterCompletes _ ra _ hra)
  · exact (hexec hin).trans (exec_printRegister_of_ge ha _)

/-- The digits are a decimal numeral without leading zeros of the number, the highest digit first. -/
structure IsDecimalNumeral (ds : List Nat) (n : Nat) : Prop where
  digit_lt : ∀ d ∈ ds, d < 10
  noLeadingZero : ds.head? = some 0 → ds = [0]
  value : ds.foldl (fun m d => 10 * m + d) 0 = n

theorem isDecimalNumeral_singleton {n : Nat} (h : n < 10) : IsDecimalNumeral [n] n where
  digit_lt := by simpa using h
  noLeadingZero := by simp
  value := by simp

/-- One more digit at the low end of the numeral of a number that is not 0: its first digit stays the first one. -/
theorem IsDecimalNumeral.append_digit {ds : List Nat} {n d : Nat} (h : IsDecimalNumeral ds n) (hn : 0 < n)
    (hd : d < 10) : IsDecimalNumeral (ds ++ [d]) (10 * n + d) where
  digit_lt e he := by
    obtain he | he := List.mem_append.mp he
    · exact h.digit_lt e he
    · exact List.mem_singleton.mp he ▸ hd
  noLeadingZero hzero := by
    have hval := h.value
    cases ds with
    | nil => exact absurd hval hn.ne
    | cons e es =>
      rw [h.noLeadingZero hzero] at hval
      exact absurd hval hn.ne
  value := by rw [List.foldl_append, h.value, List.foldl_cons, List.foldl_nil]

/-- The library's digit characters are those of a numeral: the lowest digit is written last, after those of `n / 10`. -/
theorem exists_isDecimalNumeral_toDigits (n : Nat) :
    ∃ ds, Nat.toDigits 10 n = ds.map Nat.digitChar ∧ IsDecimalNumeral ds n := by
  induction n using Nat.strong_induction_on with
  | h n ih =>
    obtain hlt | hge := Nat.lt_or_ge n 10
    · exact ⟨[n], Nat.toDigits_of_lt_base hlt, isDecimalNumeral_singleton hlt⟩
    · obtain ⟨ds, hds, hnum⟩ := ih (n / 10) (by omega)
      refine ⟨ds ++ [n % 10], ?_, ?_⟩
      · rw [Nat.toDigits_of_base_le (by decide) hge, hds, List.map_append, List.map_singleton]
      · have happ := hnum.append_digit (d := n % 10) (by omega) (by omega)
        rwa [Nat.div_add_mod] at happ

/-- Settles O41: a byte is below 10 to the power 3, so it has 3 digits at most. -/
theorem printedValueIsDecimal : Obligations.PrintedValueIsDecimal := by
  intro v
  obtain ⟨ds, hds, hnum⟩ := exists_isDecimalNumeral_toDigits v.toNat
  have hlen : (Nat.toDigits 10 v.toNat).length = ds.length := by rw [hds, List.length_map]
  have hpos : 0 < (Nat.toDigits 10 v.toNat).length := Nat.length_toDigits_pos
  have hle : (Nat.toDigits 10 v.toNat).length ≤ 3 :=
    (Nat.length_toDigits_le_iff (by decide) (by decide)).mpr (v.isLt.trans (by decide))
  exact ⟨ds, congrArg (· ++ ['\n']) hds, hlen ▸ hpos, hlen ▸ hle, hnum.digit_lt, hnum.noLeadingZero, hnum.value⟩

end Sys2Proof.Machine

/-! MULTIPLY and the ALU (R67 to R72): the write back of a result, the fault of a bad tag, and the step of MULTIPLY. -/

namespace Sys2Proof.Machine

/-- The product of two bytes is that of their natural values, reduced mod 256 (R72). -/
theorem mul_eq_ofNat_toNat_mul (va vb : Byte) : va * vb = BitVec.ofNat 8 (va.toNat * vb.toNat % 256) :=
  Option.some.inj (alu_mul va vb).symm

/-- An ALU result is written back into the first register operand (R67). -/
theorem aluInstruction_of_some {op : AluTag} {ra rb : RegIndex} {s : State} {v : Byte}
    (h : alu op (s.readReg ra) (s.readReg rb) = some v) (w : Nat) :
    aluInstruction op ra rb w s = .next ((s.writeReg ra v).advance w) := by
  rw [aluInstruction, h]

/-- Where the ALU has no result, the instruction writes no register and raises UNSUPPORTED_ALU_OP (R69). -/
theorem aluInstruction_of_none {op : AluTag} {ra rb : RegIndex} {s : State}
    (h : alu op (s.readReg ra) (s.readReg rb) = none) (w : Nat) :
    aluInstruction op ra rb w s = .next (s.recordFault .unsupportedAluOp 0#9) := by
  rw [aluInstruction, h, raise]

/-- The fault status across the dispatch: an arm keeps it or raises one of two faults, and the ALU's is neither. -/
theorem ArmCase.fault_cases {s t : State} (h : ArmCase s t) :
    t.fault = s.fault ∨ t.fault = .badRegister ∨ t.fault = .invalidInstruction := by
  cases h with
  | halt _ eq | print _ _ eq | setImm _ _ eq | mul _ _ _ eq | skipped _ _ eq => exact .inl (by simp [eq])
  | badA _ _ eq | badB _ _ _ eq => exact .inr (.inl (by simp [eq]))
  | fatal _ _ eq => exact .inr (.inr (by simp [eq]))

/-- A step leaves the fault status NONE or raises one of three faults (R18). -/
theorem step_fault_cases {s t : State} (h : step s = .next t) :
    t.fault = .none ∨ t.fault = .outOfBounds ∨ t.fault = .badRegister ∨ t.fault = .invalidInstruction := by
  obtain ⟨hrun, ⟨-, -, rfl⟩ | ⟨-, harm⟩⟩ := step_cases h
  · exact .inr (.inl (State.recordFault_fault ..))
  · obtain hkept | hraised := harm.fault_cases
    · exact .inl (hkept.trans (fault_of_isRunning hrun))
    · exact .inr (.inr hraised)

/-- Settles O39: 8-bit addition and multiplication reduce mod 256, and the advance after the write moves no register. -/
theorem aluFunction : Obligations.AluFunction := by
  refine ⟨fun va vb => ⟨va + vb, alu_add va vb, BitVec.toNat_add va vb⟩,
    fun va vb => ⟨va * vb, alu_mul va vb, BitVec.toNat_mul va vb⟩, fun _ _ _ => rfl, fun op ra rb w s v hv => ?_⟩
  refine ⟨_, aluInstruction_of_some hv w, ?_, fun r hr => ?_⟩
  · rw [State.readReg_advance, State.readReg_writeReg, if_pos rfl]
  · rw [State.readReg_advance, State.readReg_writeReg, if_neg hr.symm]

/-- Settles O40: reducing to 8 bits respects products, and a byte's signed value reduces to the byte itself. -/
theorem productSignIndependent : Obligations.ProductSignIndependent := by
  intro va vb
  have hsigned : BitVec.ofInt 8 (va.toInt * vb.toInt) = va * vb := by
    rw [BitVec.ofInt_mul, BitVec.ofInt_toInt, BitVec.ofInt_toInt]
  rw [hsigned, alu_mul]

/-- Settles O38: the ALU has no result for a bad tag, and no arm of the dispatch hands it one (R68). -/
theorem unsupportedAluOpUnreachable : Obligations.UnsupportedAluOpUnreachable := by
  refine ⟨fun tag w ra rb s => aluInstruction_of_none rfl w, fun s t ht => ?_⟩
  obtain hf | hf | hf | hf := step_fault_cases ht <;> simp [hf]

/-- Settles O30: both operands are read before the write (R58), so the two registers may be the same one. -/
theorem multiplyCompletes : Obligations.MultiplyCompletes := by
  rintro a b ⟨_, ha⟩ ⟨_, hb⟩ s rfl rfl
  rw [exec_multiply_of_lt ha hb, mul_eq_ofNat_toNat_mul]
  rfl

/-- Settles O24: in bounds the step is MULTIPLY's meaning with the two operand bytes fetched (R53), the first one
checked before the second (R51). -/
theorem multiplyStep : Obligations.MultiplyStep := by
  refine ⟨fun _ _ => rfl, fun s hh hf hop => ?_⟩
  have hd : decode (s.byteAt 0) (s.byteAt 1) (s.byteAt 2) = .ok (.multiply (s.byteAt 1) (s.byteAt 2)) :=
    hop ▸ decode_opMultiply _ _
  have hexec : fetchInBounds s → step s = exec (.multiply (s.byteAt 1) (s.byteAt 2)) s.fetched := fun hin =>
    (stepRunsDecodedInstruction s hh hf hin).1 _ hd
  refine ⟨fun ra rb hin hra hrb => ?_, fun hin ha => ?_, fun hin ha hb => ?_, step_of_not_fetchInBounds hh hf⟩
  · exact (hexec hin).trans (multiplyCompletes _ _ ra rb _ hra hrb)
  · exact (hexec hin).trans (exec_multiply_of_ge_left ha _ _)
  · exact (hexec hin).trans (exec_multiply_of_ge_right ha hb _)

end Sys2Proof.Machine

/-! Invalid instructions: the rule under each policy (R73, R74). -/

namespace Sys2Proof.Machine

theorem isOpcode_eq_false_of_not_mem {ir : Byte} (h : ir ∉ [0x01#8, 0x47#8, 0x82#8, 0xA2#8]) :
    isOpcode ir = false :=
  Bool.eq_false_iff.mpr fun hop => h ((isOpcode_iff_mem ir).mp hop)

theorem execInvalid_of_continue {s : State} (hp : s.params.invalidPolicy = .continueRun) :
    execInvalid s = .next ((s.emit (.invalid s.pc s.ir)).advance (width s.ir)) := by
  rw [execInvalid, hp]

theorem execInvalid_of_fatal {s : State} (hp : s.params.invalidPolicy = .fatal) :
    execInvalid s = .next (s.recordFault .invalidInstruction (s.ir.setWidth 9)) := by
  rw [execInvalid, hp, raise]

/-- The step at a byte that is no instruction, under FATAL, its fetch in bounds (R74). -/
theorem step_of_invalid_fatal {s : State} (hrun : s.isRunning = true)
    (hin : s.params.addrPolicy = .fault → s.pc.toNat ≤ 253) (hp : s.params.invalidPolicy = .fatal)
    (hop : isOpcode (s.byteAt 0) = false) :
    step s = .next (s.fetched.recordFault .invalidInstruction ((s.byteAt 0).setWidth 9)) := by
  have hd : decode s.fetched.ir s.fetched.operandA s.fetched.operandB = .error (.invalidOpcode (s.byteAt 0)) :=
    decode_of_not_isOpcode hop _ _
  rw [step_of_inBounds hrun hin, dispatchFetched_of_error hd]
  exact execInvalid_of_fatal (s := s.fetched) hp

/-- Settles O25: the width of any byte, valid or not, is its top two bits and 1 (R39). -/
theorem invalidInstructionContinues : Obligations.InvalidInstructionContinues := by
  intro s hh hf hp hop
  refine ⟨fun hin => ?_, step_of_not_fetchInBounds hh hf⟩
  rw [step_of_invalid_continue (s.isRunning_iff.mpr ⟨hf, hh⟩) ((fetchInBounds_iff s).mp hin) hp
    (isOpcode_eq_false_of_not_mem hop), width, operandCount_eq]
  rfl

/-- Settles O26: a fetch out of bounds ends the step before its byte is decoded (R31, R79). -/
theorem invalidInstructionFatal : Obligations.InvalidInstructionFatal := by
  intro s hh hf hp hop
  exact ⟨fun hin => step_of_invalid_fatal (s.isRunning_iff.mpr ⟨hf, hh⟩) ((fetchInBounds_iff s).mp hin) hp
    (isOpcode_eq_false_of_not_mem hop), step_of_not_fetchInBounds hh hf⟩

/-- Settles O34: CONTINUE writes the output and `pc`, FATAL the fault status. -/
theorem invalidInstructionFrame : Obligations.InvalidInstructionFrame := by
  intro s t ht
  cases hp : s.params.invalidPolicy with
  | continueRun =>
    rw [execInvalid_of_continue hp] at ht
    cases ht
    simp
  | fatal =>
    rw [execInvalid_of_fatal hp] at ht
    cases ht
    simp

end Sys2Proof.Machine

/-! Running off the end of a program (R75): under CONTINUE over the zero bytes there, one after another, up to the fetch
out of bounds (FAULT) or back to address 0 (WRAP); under FATAL to the first of them. -/

namespace Sys2Proof.Machine

/-- A run that has stopped stays where it is (R59). -/
theorem runFor_of_le_of_not_running {m n : Nat} {s : State} (hmn : m ≤ n) (h : (runFor m s).isRunning = false) :
    runFor n s = runFor m s := by
  induction n, hmn using Nat.le_induction with
  | base => rfl
  | succ n _ ih => rw [runFor_succ_of_not_running (by rwa [ih]), ih]

/-- A fault raised by a step is where its run ends (R59, R77). -/
theorem runFor_of_step_faults {k n : Nat} {s t : State} (ht : step (runFor k s) = .next t) (hf : t.fault ≠ .none)
    (hn : k + 1 ≤ n) : runFor n s = t := by
  have hk : runFor (k + 1) s = t := runFor_succ_of_step ht
  have hend : t.isRunning = false := Bool.eq_false_iff.mpr fun hrun => hf (fault_of_isRunning hrun)
  rw [runFor_of_le_of_not_running hn (hk ▸ hend), hk]

/-- Below 256 the two address policies advance `pc` alike. -/
theorem nextPc_of_lt (p : AddrPolicy) {pc : PcWord} {w : Nat} (h : pc.toNat + w < 256) :
    nextPc p pc w = BitVec.ofNat 9 (pc.toNat + w) := by
  cases p with
  | fault => rfl
  | wrap => rw [nextPc, Nat.mod_eq_of_lt h]

theorem toNat_nextPc_of_lt (p : AddrPolicy) {pc : PcWord} {w : Nat} (h : pc.toNat + w < 256) :
    (nextPc p pc w).toNat = pc.toNat + w := by
  rw [nextPc_of_lt p h, BitVec.toNat_ofNat, Nat.mod_eq_of_lt (h.trans (by decide))]

/-- Two advances are one, the first of them staying below 256. -/
theorem nextPc_nextPc (p : AddrPolicy) {pc : PcWord} {v : Nat} (w : Nat) (h : pc.toNat + v < 256) :
    nextPc p (nextPc p pc v) w = nextPc p pc (v + w) := by
  have hsum : (nextPc p pc v).toNat + w = pc.toNat + (v + w) := by rw [toNat_nextPc_of_lt p h, Nat.add_assoc]
  cases p with
  | fault => exact congrArg (BitVec.ofNat 9) hsum
  | wrap => exact congrArg (fun a => BitVec.ofNat 9 (a % 256)) hsum

/-- The events of the zero bytes at `k` addresses from `u` on. -/
def zeroEvents (u k : Nat) : List Event := (List.range' u k).map fun p => Event.invalid (BitVec.ofNat 9 p) 0#8

theorem zeroEvents_succ (u k : Nat) :
    zeroEvents u (k + 1) = zeroEvents u k ++ [.invalid (BitVec.ofNat 9 (u + k)) 0#8] := by
  simp [zeroEvents, List.range'_concat]

/-- The step at a zero byte under CONTINUE: an invalid instruction of width 1 (R73). -/
theorem step_of_zero_continue {s : State} (hrun : s.isRunning = true)
    (hin : s.params.addrPolicy = .fault → s.pc.toNat ≤ 253) (hp : s.params.invalidPolicy = .continueRun)
    (hbyte : s.byteAt 0 = 0#8) : step s = .next ((s.fetched.emit (.invalid s.pc 0#8)).advance 1) := by
  have hstep := step_of_invalid_continue hrun hin hp (by rw [hbyte]; decide)
  rwa [hbyte, show width 0#8 = 1 by decide] at hstep

/-- The state `t` has come from `s` over `n` zero bytes, one step and one event for each of them (R75). -/
structure CrossedZeros (s : State) (n : Nat) (t : State) : Prop where
  running : t.isRunning = true
  pc_eq : t.pc = nextPc s.params.addrPolicy s.pc n
  out_eq : t.out = s.out ++ zeroEvents s.pc.toNat n
  x_eq : t.x = s.x

theorem crossedZeros_zero {s : State} (hrun : s.isRunning = true) (hpc : s.pc.toNat < 256) : CrossedZeros s 0 s where
  running := hrun
  pc_eq := by rw [nextPc_of_lt _ (w := 0) hpc, Nat.add_zero, BitVec.ofNat_toNat, BitVec.setWidth_eq]
  out_eq := (List.append_nil _).symm
  x_eq := rfl

section OverZeros

variable {s : State} (hrun : s.isRunning = true) (hpc : s.pc.toNat < 256)
  (hzero : ∀ a : CellAddr, s.pc.toNat ≤ a.toNat → s.mem.read a = 0#8)
include hrun hpc hzero

/-- Running over zero bytes under CONTINUE: one step for each (R75). -/
theorem crossedZeros_runFor (hp : s.params.invalidPolicy = .continueRun) {n : Nat} (hn : s.pc.toNat + n ≤ 256)
    (hin : s.params.addrPolicy = .fault → s.pc.toNat + n ≤ max 254 s.pc.toNat) :
    CrossedZeros s n (runFor n s) := by
  induction n with
  | zero => exact crossedZeros_zero hrun hpc
  | succ n ih =>
    obtain ⟨hrun', hpc', hout, hx⟩ := ih (by omega) fun h => by have hend := hin h; omega
    have hlt : s.pc.toNat + n < 256 := hn
    have hnat : (runFor n s).pc.toNat = s.pc.toNat + n := by rw [hpc', toNat_nextPc_of_lt _ hlt]
    have hparams : (runFor n s).params = s.params := parametersFixed n s
    have hbyte : (runFor n s).byteAt 0 = 0#8 := by
      rw [State.byteAt, runFor_mem, hnat]
      exact hzero _ (by rw [BitVec.toNat_ofNat]; omega)
    have hfetch : (runFor n s).params.addrPolicy = .fault → (runFor n s).pc.toNat ≤ 253 := fun h => by
      have hend := hin (hparams ▸ h)
      omega
    rw [runFor_succ_of_step (step_of_zero_continue hrun' hfetch (by rw [hparams, hp]) hbyte)]
    exact
      { running := by rw [State.isRunning_iff] at hrun' ⊢; exact hrun'
        pc_eq := by simp [hparams, hpc', nextPc_nextPc _ _ hlt]
        out_eq := by simp [hout, hpc', nextPc_of_lt _ hlt, zeroEvents_succ]
        x_eq := hx }

/-- R75 under FAULT and CONTINUE: the run crosses the zeros up to 253, and the next fetch reports 256. -/
theorem runFor_zeros_outOfBounds (hp : s.params = { addrPolicy := .fault, invalidPolicy := .continueRun })
    {n : Nat} (hn : 255 - s.pc.toNat ≤ n) (hpos : 1 ≤ n) :
    ∃ t, CrossedZeros s (254 - s.pc.toNat) t ∧ t.pc.toNat = max 254 s.pc.toNat ∧
      runFor n s = t.recordFault .outOfBounds 256#9 := by
  have hcross : CrossedZeros s (254 - s.pc.toNat) (runFor (254 - s.pc.toNat) s) :=
    crossedZeros_runFor hrun hpc hzero (by rw [hp]) (by omega) fun _ => by omega
  have hend : (runFor (254 - s.pc.toNat) s).pc.toNat = max 254 s.pc.toNat := by
    rw [hcross.pc_eq, toNat_nextPc_of_lt _ (by omega)]
    omega
  have hstep := step_of_outOfBounds hcross.running (runFor_addrPolicy _ (by rw [hp])) (by omega)
  rw [hend, max_eq_left (by omega)] at hstep
  exact ⟨_, hcross, hend, runFor_of_step_faults hstep (by simp) (by omega)⟩

/-- R75 under WRAP and CONTINUE: the advance past the zero at 255 is to 0. -/
theorem crossedZeros_runFor_wrap (hp : s.params = { addrPolicy := .wrap, invalidPolicy := .continueRun }) :
    CrossedZeros s (256 - s.pc.toNat) (runFor (256 - s.pc.toNat) s) ∧
      (runFor (256 - s.pc.toNat) s).pc = 0#9 := by
  have hcross : CrossedZeros s (256 - s.pc.toNat) (runFor (256 - s.pc.toNat) s) :=
    crossedZeros_runFor hrun hpc hzero (by rw [hp]) (by omega) fun h => by simp [hp] at h
  refine ⟨hcross, BitVec.eq_of_toNat_eq ?_⟩
  rw [hcross.pc_eq, hp, nextPc_wrap, Nat.add_sub_cancel' hpc.le]
  rfl

end OverZeros

/-- Under FATAL the first step at a zero byte is the last: it faults at its fetch (R31) or at its byte (R74). -/
theorem step_of_zero_fatal {s : State} (hrun : s.isRunning = true) (hp : s.params.invalidPolicy = .fatal)
    (hpc : s.pc.toNat < 256) (hbyte : s.byteAt 0 = 0#8) :
    ∃ t, step s = .next t ∧ t.fault ≠ .none ∧
      (t.fault, t.faultInfo) = (if s.params.addrPolicy = .fault ∧ 254 ≤ s.pc.toNat then (FaultCode.outOfBounds, 256#9)
        else (FaultCode.invalidInstruction, 0#9)) ∧
      t.pc = s.pc ∧ t.out = s.out ∧ t.x = s.x ∧ t.halted = false := by
  obtain ⟨-, hh⟩ := s.isRunning_iff.mp hrun
  split
  · next hout =>
    refine ⟨_, step_of_outOfBounds hrun hout.1 hout.2, by simp, ?_, rfl, rfl, rfl, hh⟩
    rw [max_eq_left hpc.le]
    rfl
  · next hin =>
    have hfetch : s.params.addrPolicy = .fault → s.pc.toNat ≤ 253 := fun h =>
      Nat.le_of_not_lt fun hgt => hin ⟨h, hgt⟩
    have hstep := step_of_invalid_fatal hrun hfetch hp (by rw [hbyte]; decide)
    rw [hbyte] at hstep
    exact ⟨_, hstep, by simp, rfl, rfl, rfl, rfl, hh⟩

/-- Settles O48: under CONTINUE the run crosses the zeros to the end of memory, under FATAL it takes one step. -/
theorem runningOffTheEnd : Obligations.RunningOffTheEnd := by
  rintro s u hh hf rfl hle hzero
  have hrun : s.isRunning = true := s.isRunning_iff.mpr ⟨hf, hh⟩
  have hlt : s.pc.toNat < 256 := Nat.lt_succ_of_le hle
  refine ⟨fun hp n hn hpos => ?_, fun hp => ?_, fun hp n hpos => ?_⟩
  · obtain ⟨t, hcross, hend, ht⟩ := runFor_zeros_outOfBounds hrun hlt hzero hp hn hpos
    obtain ⟨-, hhalted⟩ := t.isRunning_iff.mp hcross.running
    rw [ht]
    exact ⟨hcross.out_eq, rfl, rfl, hend, hcross.x_eq, hhalted⟩
  · obtain ⟨hcross, hpc⟩ := crossedZeros_runFor_wrap hrun hlt hzero hp
    exact ⟨hcross.running, hpc, hcross.out_eq⟩
  · have hbyte : s.byteAt 0 = 0#8 := hzero _ (by rw [BitVec.toNat_ofNat]; omega)
    obtain ⟨t, ht, hne, hkept⟩ := step_of_zero_fatal hrun hp hlt hbyte
    rw [runFor_of_step_faults (k := 0) ht hne hpos]
    exact hkept

end Sys2Proof.Machine

/-! Faults: what a raising step changes (R76), which fault it raises (R79), and that a fault stays until reset (R77); and
a failed load, which is no fault (R89). -/

namespace Sys2Proof.Machine

/-- An arm keeps the fault status, or records a fault and does nothing else (R76). -/
theorem ArmCase.fault_eq_or_eq_recordFault {s t : State} (h : ArmCase s t) :
    t.fault = s.fault ∨ ∃ (c : FaultCode) (info : PcWord), c ≠ .outOfBounds ∧ t = s.recordFault c info := by
  cases h with
  | halt _ eq | print _ _ eq | setImm _ _ eq | mul _ _ _ eq | skipped _ _ eq => exact .inl (by simp [eq])
  | badA _ _ eq | badB _ _ _ eq | fatal _ _ eq => exact .inr ⟨_, _, by decide, eq⟩

/-- A raising step records its fault in the state before its fetch (R31), or in the state after it. -/
theorem step_eq_recordFault_of_fault_ne_none {s t : State} (h : step s = .next t) (hf : t.fault ≠ .none) :
    (∃ info : PcWord, t = s.recordFault .outOfBounds info) ∨
    ∃ (c : FaultCode) (info : PcWord), c ≠ .outOfBounds ∧ t = s.fetched.recordFault c info := by
  obtain ⟨hrun, ⟨-, -, ht⟩ | ⟨-, harm⟩⟩ := step_cases h
  · exact .inl ⟨_, ht⟩
  · obtain hkept | hraised := harm.fault_eq_or_eq_recordFault
    · exact absurd (hkept.trans (fault_of_isRunning hrun)) hf
    · exact .inr hraised

/-- Settles O35: the fault is recorded and nothing else written, before the fetch or after it has loaded the latches. -/
theorem faultsArePrecise : Obligations.FaultsArePrecise := by
  intro s t ht hf
  obtain ⟨info, rfl⟩ | ⟨c, info, hc, rfl⟩ := step_eq_recordFault_of_fault_ne_none ht hf
  · simp
  · simp [hc]

theorem not_mem_of_isOpcode_eq_false {ir : Byte} (h : isOpcode ir = false) :
    ir ∉ [0x01#8, 0x47#8, 0x82#8, 0xA2#8] := by
  rwa [← isOpcode_iff_mem, Bool.not_eq_true]

/-- The fault status a step leaves after its fetch, in the order of R79: the faults of the opcode byte or of `operand_a`,
then those of `operand_b`, else none. -/
def dispatchFaultStatus (s : State) : FaultCode × PcWord :=
  if s.ir ∉ [0x01#8, 0x47#8, 0x82#8, 0xA2#8] then
    (if s.params.invalidPolicy = .fatal then (.invalidInstruction, s.ir.setWidth 9) else (.none, s.faultInfo))
  else if s.ir ≠ 0x01#8 ∧ 8 ≤ s.operandA.toNat then (.badRegister, s.operandA.setWidth 9)
  else if s.ir = 0xA2#8 ∧ 8 ≤ s.operandB.toNat then (.badRegister, s.operandB.setWidth 9)
  else (.none, s.faultInfo)

/-- Each arm of the dispatch fixes the opcode byte and the checks it has passed, and so the one branch it takes. -/
theorem ArmCase.faultStatus_eq {s t : State} (h : ArmCase s t) (hf : s.fault = .none) :
    (t.fault, t.faultInfo) = dispatchFaultStatus s := by
  cases h with
  | halt op eq => simp [dispatchFaultStatus, eq, op, opHalt, hf]
  | print op ha eq => simp [dispatchFaultStatus, eq, op, opPrintRegister, Nat.not_le.mpr ha, hf]
  | setImm op ha eq => simp [dispatchFaultStatus, eq, op, opSetImmediate, Nat.not_le.mpr ha, hf]
  | mul op ha hb eq =>
    simp [dispatchFaultStatus, eq, op, opMultiply, Nat.not_le.mpr ha, Nat.not_le.mpr hb, hf]
  | badA op ha eq =>
    obtain op | op | op := op
    · simp [dispatchFaultStatus, eq, op, opPrintRegister, ha]
    · simp [dispatchFaultStatus, eq, op, opSetImmediate, ha]
    · simp [dispatchFaultStatus, eq, op, opMultiply, ha]
  | badB op ha hb eq => simp [dispatchFaultStatus, eq, op, opMultiply, Nat.not_le.mpr ha, hb]
  | skipped op hp eq =>
    rw [dispatchFaultStatus, if_pos (not_mem_of_isOpcode_eq_false op)]
    simp [eq, hp, hf]
  | fatal op hp eq =>
    rw [dispatchFaultStatus, if_pos (not_mem_of_isOpcode_eq_false op), if_pos hp, eq]
    rfl

/-- Settles O36: the fetch fault comes first (R31); else the fetched state answers by its three latches. -/
theorem faultPriority : Obligations.FaultPriority := by
  intro s t ht
  obtain ⟨hrun, ⟨hp, hpc, rfl⟩ | ⟨hin, harm⟩⟩ := step_cases ht
  · rw [if_pos ⟨hp, hpc⟩, ofNat_max_256_eq_outOfBoundsAddr]
    rfl
  · rw [if_neg fun hout => Nat.not_lt.mpr (hin hout.1) hout.2]
    exact harm.faultStatus_eq (fault_of_isRunning hrun)

theorem isRunning_of_fault_ne_none {s : State} (h : s.fault ≠ .none) : s.isRunning = false :=
  Bool.eq_false_iff.mpr fun hrun => h (fault_of_isRunning hrun)

/-- A run from an engine that is not running takes no step (R59). -/
theorem runFor_of_not_running {s : State} (h : s.isRunning = false) (n : Nat) : runFor n s = s :=
  runFor_of_le_of_not_running (m := 0) (Nat.zero_le n) h

/-- Settles O37: a faulted engine is not running, so it has no step (R52), and a second load is refused (R98). -/
theorem faultIsTerminal : Obligations.FaultIsTerminal := by
  intro s hf
  have hend : s.isRunning = false := isRunning_of_fault_ne_none hf
  refine ⟨fun t => step_of_not_running hend, runFor_of_not_running hend, ?_⟩
  rintro h src left n (hload | hstart | rfl)
  · cases hload
  · rw [Session.start, hend] at hstart
    cases hstart
    rfl
  · exact congrArg Session.started (runFor_of_not_running hend n)

/-- Settles O53: a load after a reset writes memory alone, and a failed one leaves a session that takes no start. -/
theorem loadErrorIsNoFault : Obligations.LoadErrorIsNoFault := by
  constructor
  · intro h h' src left hload
    obtain ⟨s, hready, hcase⟩ := Session.load_cases hload
    cases hready
    obtain ⟨img, -, rfl⟩ | ⟨e, -, rfl⟩ := hcase
    · exact ⟨rfl, rfl⟩
    · exact ⟨rfl, rfl⟩
  · intro h src left e he
    have hload : Session.load src left h.reset = .ok (.loadFailed ((State.resetWith h.params).failLoad left) e) := by
      rw [Session.reset, Session.load, he]
    refine ⟨_, hload, rfl, fun h' hstart => ?_, fun _ => rfl⟩
    cases hstart

end Sys2Proof.Machine

/-! The image of a source: when its lines give one, and which (R49, R94, R95). -/

namespace Sys2Proof.Machine

/-- The line's literal does not fit a byte: the cause of a LoadError (R95). -/
def ExceedsByte (line : List Char) : Prop :=
  isBinaryLiteral (leadingToken line) = true ∧ 255 < binaryValue (leadingToken line)

/-- What a line adds to an image: the byte it is accepted as, if it is (R94). -/
def acceptedByte (line : List Char) : Option Byte :=
  match lineByte line with
  | .ok b => b
  | .error _ => none

/-- The three things a line can be: skipped, accepted, or the failure of the load (R49). -/
theorem lineByte_cases (line : List Char) :
    (isBinaryLiteral (leadingToken line) = false ∧ lineByte line = .ok none) ∨
    (isBinaryLiteral (leadingToken line) = true ∧ binaryValue (leadingToken line) < 256 ∧
      lineByte line = .ok (some (BitVec.ofNat 8 (binaryValue (leadingToken line))))) ∨
    (ExceedsByte line ∧ lineByte line = .error (.literalTooLarge (binaryValue (leadingToken line)))) := by
  cases hlit : isBinaryLiteral (leadingToken line) with
  | false => exact .inl ⟨rfl, by simp [lineByte, hlit]⟩
  | true =>
    by_cases hlt : binaryValue (leadingToken line) < 256
    · exact .inr (.inl ⟨rfl, hlt, by simp [lineByte, hlit, hlt]⟩)
    · exact .inr (.inr ⟨⟨hlit, Nat.not_lt.mp hlt⟩, by simp [lineByte, hlit, hlt]⟩)

theorem lineByte_eq_ok_iff {line : List Char} {b : Option Byte} :
    lineByte line = .ok b ↔ ¬ ExceedsByte line ∧ b = acceptedByte line := by
  obtain ⟨hlit, h⟩ | ⟨-, hlt, h⟩ | ⟨hbig, h⟩ := lineByte_cases line
  · have hfits : ¬ ExceedsByte line := fun hbig => Bool.eq_false_iff.mp hlit hbig.1
    simp [acceptedByte, h, hfits, eq_comm]
  · have hfits : ¬ ExceedsByte line := fun hbig => absurd hlt (Nat.not_lt.mpr hbig.2)
    simp [acceptedByte, h, hfits, eq_comm]
  · simp [h, hbig]

/-- A line that fits adds a byte exactly where its token is a literal. -/
theorem isSome_acceptedByte {line : List Char} (hfits : ¬ ExceedsByte line) :
    (acceptedByte line).isSome = isBinaryLiteral (leadingToken line) := by
  obtain ⟨hlit, h⟩ | ⟨hlit, -, h⟩ | ⟨hbig, -⟩ := lineByte_cases line
  · simp [acceptedByte, h, hlit]
  · simp [acceptedByte, h, hlit]
  · exact absurd hbig hfits

theorem bytesOfLines_cons_eq_ok_iff {l : List Char} {ls : List (List Char)} {bs : List Byte} :
    bytesOfLines (l :: ls) = .ok bs ↔
      ∃ b bs', lineByte l = .ok b ∧ bytesOfLines ls = .ok bs' ∧ bs = b.toList ++ bs' := by
  cases hl : lineByte l with
  | error e => simp [bytesOfLines, hl]
  | ok b => cases hls : bytesOfLines ls <;> simp [bytesOfLines, hl, hls, eq_comm]

/-- Lines give bytes exactly when every literal fits one, and then each accepted line's, in order. -/
theorem bytesOfLines_eq_ok_iff {ls : List (List Char)} {bs : List Byte} :
    bytesOfLines ls = .ok bs ↔ (∀ l ∈ ls, ¬ ExceedsByte l) ∧ bs = ls.filterMap acceptedByte := by
  induction ls generalizing bs with
  | nil => simp [bytesOfLines, eq_comm]
  | cons l ls ih =>
    have happend : (l :: ls).filterMap acceptedByte = (acceptedByte l).toList ++ ls.filterMap acceptedByte := by
      cases h : acceptedByte l <;> simp [h]
    simp only [bytesOfLines_cons_eq_ok_iff, lineByte_eq_ok_iff, ih, happend, List.forall_mem_cons]
    constructor
    · rintro ⟨_, _, ⟨hl, rfl⟩, ⟨hls, rfl⟩, rfl⟩
      exact ⟨⟨hl, hls⟩, rfl⟩
    · rintro ⟨⟨hl, hls⟩, rfl⟩
      exact ⟨_, _, ⟨hl, rfl⟩, ⟨hls, rfl⟩, rfl⟩

/-- Where every literal fits, there are as many bytes as lines whose token is a literal. -/
theorem length_filterMap_acceptedByte {ls : List (List Char)} (hfits : ∀ l ∈ ls, ¬ ExceedsByte l) :
    (ls.filterMap acceptedByte).length = ls.countP fun l => isBinaryLiteral (leadingToken l) := by
  rw [List.length_filterMap_eq_countP]
  exact List.countP_congr fun l hl => by rw [isSome_acceptedByte (hfits l hl)]

theorem assemble_text_eq_ok_iff {cs : List Char} {img : List Byte} :
    assemble (.text cs) = .ok img ↔ bytesOfLines (splitLines cs) = .ok img ∧ img.length ≤ 256 := by
  simp only [assemble]
  split
  · next h => simp [h]
  · next bs h =>
    rw [h]
    split
    · next hle =>
      simp only [Except.ok.injEq, iff_self_and]
      rintro rfl
      exact hle
    · next hgt =>
      simp only [reduceCtorEq, Except.ok.injEq, false_iff, not_and]
      rintro rfl
      exact hgt

/-- A readable source has an image exactly when its literals fit a byte and its bytes fit memory. -/
theorem exists_assemble_text_iff (cs : List Char) :
    (∃ img, assemble (.text cs) = .ok img) ↔
      (∀ l ∈ splitLines cs, ¬ ExceedsByte l) ∧
        (splitLines cs).countP (fun l => isBinaryLiteral (leadingToken l)) ≤ 256 := by
  simp only [assemble_text_eq_ok_iff, bytesOfLines_eq_ok_iff]
  constructor
  · rintro ⟨_, ⟨hfits, rfl⟩, hlen⟩
    exact ⟨hfits, length_filterMap_acceptedByte hfits ▸ hlen⟩
  · rintro ⟨hfits, hcount⟩
    exact ⟨_, ⟨hfits, rfl⟩, (length_filterMap_acceptedByte hfits).trans_le hcount⟩

theorem exists_error_iff_forall_ne_ok {ε α : Type} {x : Except ε α} : (∃ e, x = .error e) ↔ ¬ ∃ v, x = .ok v := by
  cases x <;> simp

/-- Settles O8: the image by `bytesOfLines_eq_ok_iff`, its place by the read after a write of consecutive bytes. -/
theorem loaderPlacesImage : Obligations.LoaderPlacesImage := by
  refine ⟨fun ls bs h => (bytesOfLines_eq_ok_iff.mp h).2, fun cs img h => ?_, fun p img hlen => ⟨fun a => ?_, rfl⟩⟩
  · obtain ⟨hbytes, hlen⟩ := assemble_text_eq_ok_iff.mp h
    exact ⟨(bytesOfLines_eq_ok_iff.mp hbytes).2, hlen⟩
  · have hread : ((State.resetWith p).loadImage img).mem.read a =
        if 0 ≤ a.toNat ∧ a.toNat < 0 + img.length then img.getD (a.toNat - 0) 0#8 else 0#8 :=
      Memory.read_writeFrom (State.resetWith_mem_wf p) (k := 0) (by omega) a
    rw [hread]
    by_cases hin : a.toNat < img.length
    · rw [if_pos (by omega), Nat.sub_zero]
    · rw [if_neg (by omega), List.getD_eq_default _ _ (Nat.not_lt.mp hin)]

/-- The host's load after a reset, of a source that has no image (R95). -/
theorem Session.load_ready_of_error {src : Source} {e : LoadError} (h : assemble src = .error e) (s : State)
    (left : Vector Byte 256) : Session.load src left (.ready s) = .ok (.loadFailed (s.failLoad left) e) := by
  rw [Session.load, h]

/-- The host's load after a reset, of a source that has an image (R94). -/
theorem Session.load_ready_of_ok {src : Source} {img : List Byte} (h : assemble src = .ok img) (s : State)
    (left : Vector Byte 256) : Session.load src left (.ready s) = .ok (.loaded (s.loadImage img)) := by
  rw [Session.load, h]

/-- Settles O10: a load fails exactly when there is no image, and its session takes neither a start nor a step. -/
theorem loadErrorExactly : Obligations.LoadErrorExactly := by
  constructor
  · intro src
    cases src with
    | unreadable => simp [assemble]
    | text cs =>
      rw [exists_error_iff_forall_ne_ok, exists_assemble_text_iff, not_and_or, not_le]
      simp [ExceedsByte]
  · intro s src left e he
    exact ⟨_, Session.load_ready_of_error he s left, Memory.read_ofCells left, ⟨_, rfl⟩, fun _ => rfl⟩

end Sys2Proof.Machine

/-! Reset, and the host's actions over one use of the engine (R90, R93 to R98, R101). -/

namespace Sys2Proof.Machine

/-- Settles O44: the memory of a run is that of its first state. -/
theorem memoryConstantInRun : Obligations.MemoryConstantInRun :=
  fun n s => ⟨runFor_mem n s, fun a => congrArg (Memory.read · a) (runFor_mem n s)⟩

/-- Every register but the last is 0 after reset (R90). -/
theorem readReg_resetWith_of_lt (p : Params) {r : RegIndex} (hr : r.val < 7) : (State.resetWith p).readReg r = 0#8 := by
  have hzero : ∀ q : RegIndex, q.val < 7 → State.reset.readReg q = 0#8 := by decide
  exact hzero r hr

theorem Session.start_started_of_running {s : State} (h : s.isRunning = true) :
    Session.start (.started s) = .error .alreadyRunning := if_pos h

theorem Session.start_started_of_not_running {s : State} (h : s.isRunning = false) :
    Session.start (.started s) = .ok (.started s) := if_neg (Bool.eq_false_iff.mp h)

/-- Settles O7: an engine that is not running has no step (R52), so its run takes none, and the host's load is refused
there (R98). -/
theorem resetState : Obligations.ResetState := by
  constructor
  · rintro p h rfl
    exact ⟨_, rfl, Memory.read_empty, fun r hr => readReg_resetWith_of_lt h.params hr, rfl, rfl, rfl, rfl, rfl, rfl,
      rfl, rfl, rfl, rfl⟩
  · intro s hend
    refine ⟨fun t => step_of_not_running hend, ?_⟩
    rintro h src left n (hload | hstart | rfl)
    · cases hload
    · rw [Session.start_started_of_not_running hend] at hstart
      cases hstart
      rfl
    · exact congrArg Session.started (runFor_of_not_running hend n)

/-- Settles O11, a clause for each host action in each stage of the session. -/
theorem hostActions : Obligations.HostActions := by
  refine ⟨fun _ => rfl, fun s _ left _ himg => Session.load_ready_of_ok himg s left, fun _ _ _ _ => ⟨rfl, rfl, rfl⟩, fun _ _ => ⟨rfl, rfl, rfl⟩,
    fun s => ⟨Session.start_started_of_running, Session.start_started_of_not_running⟩,
    fun _ _ _ => ⟨rfl, rfl, rfl, rfl⟩, fun _ _ => ⟨rfl, rfl, rfl⟩, fun s hrun => if_pos hrun,
    fun s hend => ?_, fun _ => rfl⟩
  exact ⟨_, if_neg (Bool.eq_false_iff.mp hend), rfl, rfl, rfl, rfl, rfl, rfl⟩

/-- Of memory the invariant asks the canonical form alone. -/
theorem State.Inv.withMem {s : State} (h : s.Inv) {m : Memory} (hm : m.wf = true) : ({ s with mem := m } : State).Inv :=
  ⟨hm, h.pcRange, h.haltedNotFaulted, h.faultStatus, h.events⟩

theorem State.Inv.loadImage {s : State} (h : s.Inv) (img : List Byte) : (s.loadImage img).Inv :=
  h.withMem (Memory.writeFrom_wf h.memCanonical _ img)

theorem State.Inv.failLoad {s : State} (h : s.Inv) (left : Vector Byte 256) : (s.failLoad left).Inv :=
  h.withMem (Memory.ofCells_wf left)

/-- The reset state meets the invariant under every choice of the parameters: its `pc` is 0 and its output empty. -/
theorem State.resetWith_inv (p : Params) : (State.resetWith p).Inv where
  memCanonical := State.resetWith_mem_wf p
  pcRange := by
    change pcInRange p.addrPolicy 0#9
    cases p.addrPolicy with
    | fault => exact Nat.zero_le 257
    | wrap => exact Nat.zero_lt_succ 255
  haltedNotFaulted _ := rfl
  faultStatus := rfl
  events _ he := absurd he List.not_mem_nil

/-- Settles O50: a load writes memory alone, and leaves it canonical whether it succeeds or fails. -/
theorem resetAndLoadMeetInvariant : Obligations.ResetAndLoadMeetInvariant := by
  refine ⟨State.resetWith_inv _, fun p img => ⟨State.resetWith_inv p, (State.resetWith_inv p).loadImage img⟩, ?_⟩
  intro h h' src left hload
  obtain ⟨s, hready, hcase⟩ := Session.load_cases hload
  cases hready
  have hinv : (State.resetWith h.params).Inv := State.resetWith_inv h.params
  obtain ⟨img, -, rfl⟩ | ⟨e, -, rfl⟩ := hcase
  · exact hinv.loadImage img
  · exact hinv.failLoad left

end Sys2Proof.Machine
